-- ==== Sys2Proof/Word.lean ====
section
/-! DEFINITION. The widths of FSYNC (00_scope.md R11; 30_encoding.md R80), each under a name. Bit 0 is the least
significant bit of every one of them (00_scope.md R12) and all values are unsigned (R13). -/

namespace Sys2Proof

/-- A data byte of the serial link (00_scope.md R11). -/
abbrev Byte := BitVec 8

/-- Format CYC: the 14-bit input vector of one clock cycle (30_encoding.md R81). -/
abbrev CycVector := BitVec 14

/-- Format RD: the 3-bit read address (30_encoding.md R85). -/
abbrev RdAddr := BitVec 3

/-- A word of the read port, and an event counter (00_scope.md R11). -/
abbrev Word := BitVec 32

/-- An emitted status frame, byte 0 in bits 7:0 (10_state.md R39). -/
abbrev FrameWord := BitVec 48

end Sys2Proof
end

