-- ==== Sys2Proof/Syntax.lean ====
section
/-! DEFINITION. FSYNC's operations, one constructor per row of spec/opcode_table.json; the two formats they are encoded
in; and the trace lines and pseudo-operations of 30_encoding.md section 5. -/

namespace Sys2Proof

/-- The operations a cycle can present (00_scope.md R2): the seven CYC operations of 30_encoding.md R82 and the eight RD
accesses of R85. `tick` of the two byte operations is the table's field `tick_ignored`, bit 8 of the vector. -/
inductive Instr where
  | reset
  | err
  | eos
  | byte (d : Byte) (tick : Bool)
  | byteLast (d : Byte) (tick : Bool)
  | tick
  | nop
  | rdStatus
  | rdFrameLo
  | rdFrameHi
  | rdSync
  | rdFrames
  | rdOverruns
  | rdTimeouts
  | rdConfig
  deriving DecidableEq, Repr

/-- The two operation formats (30_encoding.md R80). -/
inductive Format where
  | cyc
  | rd
  deriving DecidableEq, Repr

/-- What one of the two input ports carries in a cycle: a 14-bit vector or a 3-bit address (30_encoding.md R80). -/
inductive PortWord where
  | cyc (v : CycVector)
  | rd (a : RdAddr)
  deriving DecidableEq, Repr

/-- The mnemonic of an operation's row in spec/opcode_table.json. -/
def Instr.mnemonic : Instr → String
  | .reset => "RESET"
  | .err => "ERR"
  | .eos => "EOS"
  | .byte _ _ => "BYTE"
  | .byteLast _ _ => "BYTE_LAST"
  | .tick => "TICK"
  | .nop => "NOP"
  | .rdStatus => "RD_STATUS"
  | .rdFrameLo => "RD_FRAME_LO"
  | .rdFrameHi => "RD_FRAME_HI"
  | .rdSync => "RD_SYNC"
  | .rdFrames => "RD_FRAMES"
  | .rdOverruns => "RD_OVERRUNS"
  | .rdTimeouts => "RD_TIMEOUTS"
  | .rdConfig => "RD_CONFIG"

/-- The format of an operation's row in spec/opcode_table.json. -/
def Instr.format : Instr → Format
  | .reset => .cyc
  | .err => .cyc
  | .eos => .cyc
  | .byte _ _ => .cyc
  | .byteLast _ _ => .cyc
  | .tick => .cyc
  | .nop => .cyc
  | .rdStatus => .rd
  | .rdFrameLo => .rd
  | .rdFrameHi => .rd
  | .rdSync => .rd
  | .rdFrames => .rd
  | .rdOverruns => .rd
  | .rdTimeouts => .rd
  | .rdConfig => .rd

/-- One row of the operation map of 30_encoding.md R82 or R85: an encoding `w` belongs to the row when
`w &&& mask = pattern`. -/
structure OpcodeRow (w : Nat) where
  mnemonic : String
  mask : BitVec w
  pattern : BitVec w
  deriving DecidableEq, Repr

/-- The eight registers of the read space by name (20_memory.md R67). -/
inductive RegName where
  | STATUS
  | FRAME_LO
  | FRAME_HI
  | SYNC
  | FRAMES
  | OVERRUNS
  | TIMEOUTS
  | CONFIG
  deriving DecidableEq, Repr

/-- A line of an input trace, one clock cycle (30_encoding.md R97). -/
inductive TraceLine where
  | reset
  | err
  | eos
  | byte (d : Byte)
  | byteL (d : Byte)
  | byteT (d : Byte)
  | byteLT (d : Byte)
  | tick
  | nop
  | read (r : RegName)
  deriving DecidableEq, Repr

/-- The pseudo-operations of input traces (30_encoding.md R98). -/
inductive PseudoOp where
  | chunk (bs : List Byte)
  | frame (b0 b1 b2 b3 b4 b5 : Byte)
  | stream (bs : List Byte)
  | wait (n : Nat)
  | idle (n : Nat)
  deriving DecidableEq, Repr

end Sys2Proof
end

