-- ==== Sys2Proof/Config.lean ====
section
/-! DEFINITION. What an implementation of FSYNC fixes (the timeout T, the frame length), and the free values: constants
without a body, of which no proof can know the value. -/

namespace Sys2Proof

/-- The build-time parameters of FSYNC (00_scope.md R9). They are configuration, not state (10_state.md R32); State
carries them so that every statement holds for every T (log entry 3). -/
structure Params where
  /-- T, the idle timeout in ticks, 1 to 65535 (R9; `Params.wellFormed` is the check). -/
  T : BitVec 16
  deriving DecidableEq, Repr

/-- The spec's default, T = 10 (00_scope.md R9). -/
def Params.reference : Params := { T := 10 }

namespace Config

/-- FRAME_LEN, fixed at 6 and no parameter (00_scope.md R8), as the four bits CONFIG[19:16] (30_encoding.md R94). -/
def frameLen : BitVec 4 := 6

/-- DESIGN CHOICE (safe; log entry 2). The n-th input vector the environment draws freely (00_scope.md R6). -/
opaque freeVector : Nat → CycVector

/-- DESIGN CHOICE (safe; log entry 2). The n-th read address the environment draws freely (00_scope.md R6). -/
opaque freeRdAddr : Nat → RdAddr

/-- DESIGN CHOICE (safe; log entry 13). Whether the host shows the hexadecimal digits A to F in capitals
(41_status_decoder.md R164 does not say). -/
opaque displayCapitals : Bool

/-- DESIGN CHOICE (safe; log entry 6). The unspecified register contents before the first RESET after power-up
(70_reset_and_hazards.md R232): field number n of `State.powerUp` is cut from the n-th word. -/
opaque powerUpWord : Nat → BitVec 48

end Config

end Sys2Proof
end

