-- ==== Sys2Proof/WellFormed.lean ====
section
/-! DEFINITION. Which terms are well formed: every operation is (30_encoding.md R96: no vector and no address is illegal or
reserved, and an operand is any byte), a parameter set is when T is in 1..65535 (00_scope.md R9), and a pseudo-operation
is when it has at least one byte where 30_encoding.md R98 asks for one. -/

namespace Sys2Proof

/-- Every operation with every operand is well formed (30_encoding.md R84, R96). -/
def Instr.wellFormed : Instr → Bool
  | .reset => true
  | .err => true
  | .eos => true
  | .byte _ _ => true
  | .byteLast _ _ => true
  | .tick => true
  | .nop => true
  | .rdStatus => true
  | .rdFrameLo => true
  | .rdFrameHi => true
  | .rdSync => true
  | .rdFrames => true
  | .rdOverruns => true
  | .rdTimeouts => true
  | .rdConfig => true

/-- 1 <= T <= 65535 (00_scope.md R9); the upper bound is T's width. -/
def Params.wellFormed (p : Params) : Bool := p.T != 0

/-- A chunk or a stream has at least one byte (30_encoding.md R83, R98). -/
def PseudoOp.wellFormed : PseudoOp → Bool
  | .chunk bs => !bs.isEmpty
  | .frame _ _ _ _ _ _ => true
  | .stream bs => !bs.isEmpty
  | .wait _ => true
  | .idle _ => true

end Sys2Proof
end

