-- ==== Sys2Proof/Decode.lean ====
section
/-! DEFINITION. The decoder of both formats (30_encoding.md R81, R82, R85), total on the port words and on any bytes,
the operation maps as tables, and the encoder. -/

namespace Sys2Proof

/-! ## The named bits of a CYC vector (30_encoding.md R81) -/

/-- `rst`, bit 13: synchronous reset request. -/
def pinRst (v : CycVector) : Bool := v.getLsbD 13
/-- `eos`, bit 12: end of stream from the transport. -/
def pinEos (v : CycVector) : Bool := v.getLsbD 12
/-- `err`, bit 11: transport read error. -/
def pinErr (v : CycVector) : Bool := v.getLsbD 11
/-- `rx_valid`, bit 10: a received byte is present. -/
def pinRxValid (v : CycVector) : Bool := v.getLsbD 10
/-- `rx_last`, bit 9: the byte is the last of its chunk. -/
def pinRxLast (v : CycVector) : Bool := v.getLsbD 9
/-- `tick`, bit 8: one tick of the idle timebase. -/
def pinTick (v : CycVector) : Bool := v.getLsbD 8
/-- `rx_data`, bits 7:0: the received byte, taken as is (30_encoding.md R84). -/
def pinRxData (v : CycVector) : Byte := v.extractLsb' 0 8

/-! ## Decoding -/

/-- The operation map of CYC, tried in the order of 30_encoding.md R82: RESET over ERR over EOS over a byte over a tick. -/
def decodeCyc (v : CycVector) : Instr :=
  if pinRst v then .reset
  else if pinErr v then .err
  else if pinEos v then .eos
  else if pinRxValid v then
    if pinRxLast v then .byteLast (pinRxData v) (pinTick v)
    else .byte (pinRxData v) (pinTick v)
  else if pinTick v then .tick
  else .nop

/-- The register at a read address (20_memory.md R67; all eight addresses are defined). -/
def regAt (a : RdAddr) : RegName :=
  match a.toNat with
  | 0 => .STATUS
  | 1 => .FRAME_LO
  | 2 => .FRAME_HI
  | 3 => .SYNC
  | 4 => .FRAMES
  | 5 => .OVERRUNS
  | 6 => .TIMEOUTS
  | _ => .CONFIG

/-- The read address of a register (20_memory.md R67). -/
def addrOf : RegName → RdAddr
  | .STATUS => 0
  | .FRAME_LO => 1
  | .FRAME_HI => 2
  | .SYNC => 3
  | .FRAMES => 4
  | .OVERRUNS => 5
  | .TIMEOUTS => 6
  | .CONFIG => 7

/-- The access that reads a register (30_encoding.md R85). -/
def readOf : RegName → Instr
  | .STATUS => .rdStatus
  | .FRAME_LO => .rdFrameLo
  | .FRAME_HI => .rdFrameHi
  | .SYNC => .rdSync
  | .FRAMES => .rdFrames
  | .OVERRUNS => .rdOverruns
  | .TIMEOUTS => .rdTimeouts
  | .CONFIG => .rdConfig

/-- The map of format RD (30_encoding.md R85). -/
def decodeRd (a : RdAddr) : Instr := readOf (regAt a)

/-- The operation a port word stands for; total, since no word is illegal (30_encoding.md R96). -/
def decodePort : PortWord → Instr
  | .cyc v => decodeCyc v
  | .rd a => decodeRd a

/-- Why bytes given to the decoder are no port word: they do not have the format's fixed width (30_encoding.md R80). -/
inductive DecodeReject where
  /-- Not two bytes for a CYC vector, or not one byte for an RD address. -/
  | wrongLength
  /-- A bit above bit 13 of a CYC vector, or above bit 2 of an RD address, is set: FSYNC has no such input. -/
  | bitsAboveWidth
  deriving DecidableEq, Repr

/-- The port word in bytes laid out least significant byte first: two for CYC, one for RD. -/
def portWordOfBytes : Format → List Byte → Except DecodeReject PortWord
  | .cyc, [lo, hi] =>
    if hi.toNat < 64 then .ok (.cyc ((hi ++ lo).setWidth 14)) else .error .bitsAboveWidth
  | .cyc, _ => .error .wrongLength
  | .rd, [b] => if b.toNat < 8 then .ok (.rd (b.setWidth 3)) else .error .bitsAboveWidth
  | .rd, _ => .error .wrongLength

/-- The decoder on any bytes of a format. -/
def decode (fmt : Format) (bytes : List Byte) : Except DecodeReject Instr :=
  match portWordOfBytes fmt bytes with
  | .ok w => .ok (decodePort w)
  | .error r => .error r

/-! ## The operation maps as tables (30_encoding.md R82, R85; spec/opcode_table.json) -/

/-- The seven rows of R82, in order. -/
def cycTable : List (OpcodeRow 14) :=
  [ ⟨"RESET", 0x2000, 0x2000⟩, ⟨"ERR", 0x2800, 0x0800⟩, ⟨"EOS", 0x3800, 0x1000⟩,
    ⟨"BYTE", 0x3E00, 0x0400⟩, ⟨"BYTE_LAST", 0x3E00, 0x0600⟩, ⟨"TICK", 0x3D00, 0x0100⟩,
    ⟨"NOP", 0x3D00, 0x0000⟩ ]

/-- The eight rows of R85, in order. -/
def rdTable : List (OpcodeRow 3) :=
  [ ⟨"RD_STATUS", 7, 0⟩, ⟨"RD_FRAME_LO", 7, 1⟩, ⟨"RD_FRAME_HI", 7, 2⟩, ⟨"RD_SYNC", 7, 3⟩,
    ⟨"RD_FRAMES", 7, 4⟩, ⟨"RD_OVERRUNS", 7, 5⟩, ⟨"RD_TIMEOUTS", 7, 6⟩, ⟨"RD_CONFIG", 7, 7⟩ ]

/-! ## Encoding -/

/-- The vector of a byte operation: `rx_valid` set, `rx_last` and `tick` as given, the byte in bits 7:0. -/
def byteVector (last tick : Bool) (d : Byte) : CycVector :=
  0#3 ++ 1#1 ++ BitVec.ofBool last ++ BitVec.ofBool tick ++ d

/-- The port word of an operation, the vector 30_encoding.md R97 lists for it: bits R82 ignores are 0, but for the
table's field `tick_ignored`. -/
def encode : Instr → PortWord
  | .reset => .cyc 0x2000
  | .err => .cyc 0x0800
  | .eos => .cyc 0x1000
  | .byte d tick => .cyc (byteVector false tick d)
  | .byteLast d tick => .cyc (byteVector true tick d)
  | .tick => .cyc 0x0100
  | .nop => .cyc 0x0000
  | .rdStatus => .rd (addrOf .STATUS)
  | .rdFrameLo => .rd (addrOf .FRAME_LO)
  | .rdFrameHi => .rd (addrOf .FRAME_HI)
  | .rdSync => .rd (addrOf .SYNC)
  | .rdFrames => .rd (addrOf .FRAMES)
  | .rdOverruns => .rd (addrOf .OVERRUNS)
  | .rdTimeouts => .rd (addrOf .TIMEOUTS)
  | .rdConfig => .rd (addrOf .CONFIG)

/-- A port word in bytes, least significant byte first: the layout `portWordOfBytes` reads. -/
def portWordBytes : PortWord → List Byte
  | .cyc v => [v.extractLsb' 0 8, (v.extractLsb' 8 6).setWidth 8]
  | .rd a => [a.setWidth 8]

/-- The bytes of an operation. -/
def encodeBytes (i : Instr) : List Byte := portWordBytes (encode i)

/-! ## The opcode table's numbering -/

/-- The low `n` bytes of a number, least significant first. -/
def bytesOfNat : Nat → Nat → List Byte
  | 0, _ => []
  | n + 1, w => BitVec.ofNat 8 w :: bytesOfNat n (w / 256)

/-- The port word whose bits are `w`, in a row of `nbits` bits: a row of one byte has format RD, one of two bytes CYC. -/
def tablePortWord (nbits w : Nat) : Option PortWord :=
  let n := (nbits + 7) / 8
  let fmt := if n ≤ 1 then Format.rd else Format.cyc
  if w < 256 ^ n then (portWordOfBytes fmt (bytesOfNat n w)).toOption else none

/-- The operation the decoder reads from an opcode-table word. -/
def decodeTableWord (nbits w : Nat) : Option Instr := (tablePortWord nbits w).map decodePort

end Sys2Proof
end

