-- ==== Sys2Proof/Machine/State.lean ====
section
/-! DEFINITION. FSYNC's state, exactly the fields of 10_state.md R32, and around it the model's own fields: the parameter
T, the input cycles the environment has decided on, and the word the read port last showed. -/

namespace Sys2Proof.Machine

/-- The state of FSYNC: "exactly the following fields, and nothing else" (10_state.md R32). -/
structure Fsync where
  /-- `buf[0..5]`, the frame buffer; `buf[i]` is the i-th byte of the current generation (R33). -/
  buf : Vector Byte 6
  /-- `cnt`, bytes in the current generation; 7 means more than 6 (R34). -/
  cnt : BitVec 3
  /-- `open`, a chunk is in progress (R36). -/
  chunkOpen : Bool
  /-- `idle_cnt`, ticks since the idle timer was armed (R37). -/
  idleCnt : BitVec 16
  /-- `halted`, the receive loop has ended (R38). -/
  halted : Bool
  /-- `halt_cause`: 0 not halted, 1 end of stream, 2 read error (R38). -/
  haltCause : BitVec 2
  /-- `frame`, the last emitted frame (R39). -/
  frame : FrameWord
  /-- `valid`, a frame has been emitted since reset (R40). -/
  valid : Bool
  /-- `status`, the bitfield extract register (R40; layout 30_encoding.md R87). -/
  status : Word
  /-- `frames`, emitted frames modulo 2^32 (R42). -/
  frames : Word
  /-- `overruns`, overrun discards modulo 2^32 (R42). -/
  overruns : Word
  /-- `timeouts`, idle-timeout discards modulo 2^32 (R42). -/
  timeouts : Word
  /-- `ev_frame`, the latest step emitted a frame (R43). -/
  evFrame : Bool
  /-- `ev_ovr`, the latest step discarded an overrun (R43). -/
  evOvr : Bool
  /-- `ev_tmo`, the latest step was an idle timeout (R43). -/
  evTmo : Bool
  /-- `ev_halt`, the latest step halted the receive loop (R43). -/
  evHalt : Bool
  deriving DecidableEq, Repr

/-- `ResetState` (10_state.md R48). -/
def Fsync.reset : Fsync where
  buf := #v[0x00, 0x00, 0x00, 0x00, 0x00, 0x00]
  cnt := 0
  chunkOpen := false
  idleCnt := 0
  halted := false
  haltCause := 0
  frame := 0
  valid := false
  status := 0x00000000
  frames := 0
  overruns := 0
  timeouts := 0
  evFrame := false
  evOvr := false
  evTmo := false
  evHalt := false

/-- What the environment drives in one cycle: the CYC vector and the read address (30_encoding.md R80). -/
structure Pins where
  vec : CycVector
  rdAddr : RdAddr
  deriving DecidableEq, Repr

/-- The machine: FSYNC with its parameters and what stands around it. -/
structure State where
  /-- The build-time parameters; no step writes them (log entry 3). -/
  params : Params
  /-- FSYNC's own state (10_state.md R32). -/
  fsync : Fsync
  /-- The model's own: the cycles the environment will present, the next one first (log entry 1). -/
  inputs : List Pins
  /-- The model's own: how many cycles were drawn from the free values of Config (log entry 2). -/
  draws : Nat
  /-- The model's own: the word port `rd_data` showed in the latest cycle (10_state.md R44; log entry 4). -/
  rdData : Word
  deriving DecidableEq, Repr

/-- FSYNC raises no exception and has no trap (60_exceptions.md R200): there is no way to fault, and the type that would
name one has no constructor. -/
inductive Fault where
  deriving DecidableEq, Repr

/-- Every operation has its meaning and no encoding is illegal (30_encoding.md R96). -/
inductive Refusal where
  /-- An arm of `exec` without a meaning would raise it (safe: the machine stops); none does. -/
  | notModelled (mnemonic : String)
  deriving DecidableEq, Repr

/-- The machine right after reset (10_state.md R48), with the default T = 10 (00_scope.md R9), no input cycle placed and
nothing read yet. DESIGN CHOICE: `inputs` empty, `draws` 0, `rdData` 0 (log entries 1, 2, 4). -/
def State.reset : State where
  params := Params.reference
  fsync := Fsync.reset
  inputs := []
  draws := 0
  rdData := 0

/-- FSYNC before the first RESET after power-up: "every field may hold any value" (70_reset_and_hazards.md R232). Every
field is a free value (log entry 6). -/
def Fsync.powerUp : Fsync where
  buf := Vector.ofFn fun i => (Config.powerUpWord i.val).setWidth 8
  cnt := (Config.powerUpWord 6).setWidth 3
  chunkOpen := (Config.powerUpWord 7).getLsbD 0
  idleCnt := (Config.powerUpWord 8).setWidth 16
  halted := (Config.powerUpWord 9).getLsbD 0
  haltCause := (Config.powerUpWord 10).setWidth 2
  frame := Config.powerUpWord 11
  valid := (Config.powerUpWord 12).getLsbD 0
  status := (Config.powerUpWord 13).setWidth 32
  frames := (Config.powerUpWord 14).setWidth 32
  overruns := (Config.powerUpWord 15).setWidth 32
  timeouts := (Config.powerUpWord 16).setWidth 32
  evFrame := (Config.powerUpWord 17).getLsbD 0
  evOvr := (Config.powerUpWord 18).getLsbD 0
  evTmo := (Config.powerUpWord 19).getLsbD 0
  evHalt := (Config.powerUpWord 20).getLsbD 0

/-- The machine with FSYNC as it may be at power-up; the model's runs start from `State.reset` instead (R232). -/
def State.powerUp : State := { State.reset with fsync := Fsync.powerUp }

end Sys2Proof.Machine
end

