-- ==== Sys2Proof/Machine/Flags.lean ====
section
/-! DEFINITION. The event flags (10_state.md R43; 60_exceptions.md R201, R202). FSYNC has no arithmetic condition codes
(10_state.md R45); its other status flags are fields of the STATUS word. -/

namespace Sys2Proof.Machine

/-- The four events (60_exceptions.md R201). -/
inductive Event where
  | frame
  | ovr
  | tmo
  | halt
  deriving DecidableEq, Repr

/-- The code of an event: its bit position in SYNC (60_exceptions.md R201). -/
def eventCode : Event → Nat
  | .frame => 12
  | .ovr => 13
  | .tmo => 14
  | .halt => 15

/-- The flag of an event. -/
def eventFlag (e : Event) (f : Fsync) : Bool :=
  match e with
  | .frame => f.evFrame
  | .ovr => f.evOvr
  | .tmo => f.evTmo
  | .halt => f.evHalt

/-- `s0` of 40_synchronizer.md R110: every step first sets all four flags to 0 (60_exceptions.md R202). -/
def clearEvents (f : Fsync) : Fsync :=
  { f with evFrame := false, evOvr := false, evTmo := false, evHalt := false }

/-- `event(E)`: set the flag of E (60_exceptions.md R202). -/
def raiseEvent (e : Event) (f : Fsync) : Fsync :=
  match e with
  | .frame => { f with evFrame := true }
  | .ovr => { f with evOvr := true }
  | .tmo => { f with evTmo := true }
  | .halt => { f with evHalt := true }

end Sys2Proof.Machine
end

