-- ==== Sys2Proof/Machine/StatusDecoder.lean ====
section
/-! DEFINITION. The status decoder `Extract` (41_status_decoder.md): a total function of the 48 bits of a frame. -/

namespace Sys2Proof.Machine

/-- B(k), frame byte k, bits 8k+7 to 8k (41_status_decoder.md; 20_memory.md R61, R62). -/
def frameByte (f : FrameWord) (k : Nat) : Byte := f.extractLsb' (8 * k) 8

/-- FAN: raw 7 clamps to 0, every other value passes (41_status_decoder.md R160). -/
def fanSpeed (f : FrameWord) : BitVec 3 :=
  let raw := (frameByte f 2).extractLsb' 4 3
  if raw = 7 then 0 else raw

/-- `Extract(f)` (41_status_decoder.md R161), the parts from bit 31 down to bit 0. -/
def extract (f : FrameWord) : Word :=
  0#1                                             -- 31, VALID, supplied by Emit
    ++ 0#8                                        -- 30:23, reserved
    ++ BitVec.ofBool ((frameByte f 4).getLsbD 3)  -- 22 RECIRC (R156)
    ++ BitVec.ofBool ((frameByte f 4).getLsbD 5)  -- 21 RDEF_OFF (R155)
    ++ BitVec.ofBool ((frameByte f 4).getLsbD 6)  -- 20 FDEF_OFF (R154)
    ++ BitVec.ofBool ((frameByte f 3).getLsbD 5)  -- 19 AC_OFF (R153)
    ++ BitVec.ofBool ((frameByte f 3).getLsbD 6)  -- 18 MANUAL (R151)
    ++ (frameByte f 4).extractLsb' 0 2            -- 17:16 AIRFLOW (R152)
    ++ 0#1                                        -- 15, reserved
    ++ fanSpeed f                                 -- 14:12 FAN (R160)
    ++ (frameByte f 1).extractLsb' 0 4            -- 11:8 TEMP_N1 (R157)
    ++ (frameByte f 2).extractLsb' 0 4            -- 7:4 TEMP_N2 (R158)
    ++ (frameByte f 3).extractLsb' 0 4            -- 3:0 TEMP_N3 (R159)

/-- `{valid, Extract(f)[30:0]}`, the word STATUS holds for the frame f (10_state.md R40; 40_synchronizer.md R121). -/
def statusFor (valid : Bool) (f : FrameWord) : Word :=
  BitVec.ofBool valid ++ (extract f).extractLsb' 0 31

end Sys2Proof.Machine
end

