-- ==== Sys2Proof/Machine/Ops.lean ====
section
/-! DEFINITION. The shared sub-steps of the frame synchronizer (40_synchronizer.md section 2). FSYNC has no exception to
take and no return from one (60_exceptions.md R200, R206, R207); its one lasting change of operating condition is
`haltLoop`, and only RESET undoes it. It has no memory either (20_memory.md R60). -/

namespace Sys2Proof.Machine

/-- The synchronizer states with a code in 30_encoding.md R91. `resync` is the source's transient state, which is never
held between two steps (10_state.md R41). -/
inductive SyncState where
  | idle
  | accum
  | recv
  | resync
  | halted
  deriving DecidableEq, Repr

/-- The synchronizer state as a function of the fields (10_state.md R41). -/
def syncState (f : Fsync) : SyncState :=
  if f.halted then .halted
  else if f.chunkOpen then .recv
  else if f.cnt = 0 then .idle
  else .accum

/-- The STATE codes (30_encoding.md R91). -/
def stateCode : SyncState → BitVec 3
  | .idle => 0
  | .accum => 1
  | .recv => 2
  | .resync => 3
  | .halted => 4

/-- Append(s, d): store the byte if it is one of the first six, count it saturating at 7, cancel the idle timer
(40_synchronizer.md R112). -/
def appendByte (d : Byte) (f : Fsync) : Fsync :=
  { f with
    buf := if h : f.cnt.toNat < 6 then f.buf.set f.cnt.toNat d h else f.buf
    cnt := if f.cnt = 7 then 7 else f.cnt + 1
    idleCnt := 0 }

/-- The six buffered bytes as a frame, byte 0 lowest (40_synchronizer.md R121). -/
def bufferFrame (b : Vector Byte 6) : FrameWord :=
  b[5] ++ b[4] ++ b[3] ++ b[2] ++ b[1] ++ b[0]

/-- Emit(s): output one complete frame and its decoded record (40_synchronizer.md R121). -/
def emitFrame (f : Fsync) : Fsync :=
  raiseEvent .frame
    { f with
      frame := bufferFrame f.buf
      valid := true
      status := statusFor true (bufferFrame f.buf)
      frames := f.frames + 1
      cnt := 0 }

/-- Overrun(s): discard the whole buffer (40_synchronizer.md R122). -/
def overrunDiscard (f : Fsync) : Fsync :=
  raiseEvent .ovr { f with overruns := f.overruns + 1, cnt := 0 }

/-- Arm(s): nothing but what Append and Evaluate already did (40_synchronizer.md R123). -/
def armTimer (f : Fsync) : Fsync := f

/-- Evaluate(s): the length test at the end of a chunk (40_synchronizer.md R120). -/
def evaluateChunk (f : Fsync) : Fsync :=
  let closed := { f with chunkOpen := false }
  if f.cnt = 6 then emitFrame closed
  else if f.cnt = 7 then overrunDiscard closed
  else armTimer closed

/-- Timeout(s): the idle timer expired, discard the partial frame (40_synchronizer.md R124). -/
def timeoutDiscard (f : Fsync) : Fsync :=
  raiseEvent .tmo { f with timeouts := f.timeouts + 1, cnt := 0, idleCnt := 0 }

/-- BYTE's effect on FSYNC: append the byte and hold the chunk open (40_synchronizer.md R114); while halted the byte is
dropped (R111). -/
def acceptByte (d : Byte) (f : Fsync) : Fsync :=
  if f.halted then f else { appendByte d f with chunkOpen := true }

/-- BYTE_LAST's effect on FSYNC: append the byte and evaluate the closed chunk (40_synchronizer.md R115); while halted the
byte is dropped (R111). -/
def acceptLastByte (d : Byte) (f : Fsync) : Fsync :=
  if f.halted then f else evaluateChunk (appendByte d f)

/-- Halt(s, c): end the receive loop with cause c; the first cause is kept (40_synchronizer.md R125). -/
def haltLoop (cause : BitVec 2) (f : Fsync) : Fsync :=
  if f.halted then f
  else
    raiseEvent .halt
      { f with cnt := 0, chunkOpen := false, idleCnt := 0, halted := true, haltCause := cause }

/-- TickStep(s0): the idle timer counts in ACCUM only and expires at T (40_synchronizer.md R116). -/
def tickTimer (T : BitVec 16) (f : Fsync) : Fsync :=
  if syncState f = .accum then
    if f.idleCnt + 1 = T then timeoutDiscard f else { f with idleCnt := f.idleCnt + 1 }
  else f

/-- One clock edge: every step but RESET works on the state with the event flags cleared (40_synchronizer.md R110). -/
def clocked (g : Fsync → Fsync) (s : State) : State := { s with fsync := g (clearEvents s.fsync) }

/-- The read port shows a word (42_register_reads.md R180); FSYNC itself is unchanged (20_memory.md R64). -/
def showWord (w : Word) (s : State) : State := { s with rdData := w }

end Sys2Proof.Machine
end

