-- ==== Sys2Proof/Machine/ReadPort.lean ====
section
/-! DEFINITION. The eight words of the read space (42_register_reads.md R181 to R188; layouts 30_encoding.md R87 to R94) and
`RegRead`, a pure function of the state (20_memory.md R63). -/

namespace Sys2Proof.Machine

/-- SYNC (30_encoding.md R90; 42_register_reads.md R184), the parts from bit 31 down to bit 0. -/
def syncWord (f : Fsync) : Word :=
  f.idleCnt ++ BitVec.ofBool f.evHalt ++ BitVec.ofBool f.evTmo ++ BitVec.ofBool f.evOvr ++ BitVec.ofBool f.evFrame
    ++ 0#2 ++ f.haltCause ++ 0#1 ++ f.cnt ++ 0#1 ++ stateCode (syncState f)

/-- FRAME_LO: frame bytes 0 to 3 (30_encoding.md R88). -/
def frameLoWord (f : Fsync) : Word := f.frame.extractLsb' 0 32

/-- FRAME_HI: frame bytes 4 and 5, zero-extended (30_encoding.md R89). -/
def frameHiWord (f : Fsync) : Word := (f.frame.extractLsb' 32 16).setWidth 32

/-- CONFIG: T and FRAME_LEN, a constant of the build (30_encoding.md R94). -/
def configWord (p : Params) : Word := (Config.frameLen ++ p.T).setWidth 32

/-- The word a register shows (42_register_reads.md R181 to R188). -/
def regWord (s : State) : RegName → Word
  | .STATUS => s.fsync.status
  | .FRAME_LO => frameLoWord s.fsync
  | .FRAME_HI => frameHiWord s.fsync
  | .SYNC => syncWord s.fsync
  | .FRAMES => s.fsync.frames
  | .OVERRUNS => s.fsync.overruns
  | .TIMEOUTS => s.fsync.timeouts
  | .CONFIG => configWord s.params

/-- `RegRead(a)` (42_register_reads.md R180). -/
def regRead (s : State) (a : RdAddr) : Word := regWord s (regAt a)

end Sys2Proof.Machine
end

