-- ==== Sys2Proof/Machine/RegisterReads.lean ====
section
/-! DEFINITION. The meanings of the RD accesses: the read port shows a word, no clock edge happens and nothing of FSYNC
changes (42_register_reads.md R180; 20_memory.md R64). -/

namespace Sys2Proof.Machine

/-- RD_STATUS (42_register_reads.md R181). -/
def execRdStatus (s : State) : Host.Outcome State Fault Refusal := .next (showWord s.fsync.status s)

/-- RD_FRAME_LO (42_register_reads.md R182). -/
def execRdFrameLo (s : State) : Host.Outcome State Fault Refusal := .next (showWord (frameLoWord s.fsync) s)

/-- RD_FRAME_HI (42_register_reads.md R183). -/
def execRdFrameHi (s : State) : Host.Outcome State Fault Refusal := .next (showWord (frameHiWord s.fsync) s)

/-- RD_SYNC (42_register_reads.md R184); reading does not clear the event bits. -/
def execRdSync (s : State) : Host.Outcome State Fault Refusal := .next (showWord (syncWord s.fsync) s)

/-- RD_FRAMES (42_register_reads.md R185). -/
def execRdFrames (s : State) : Host.Outcome State Fault Refusal := .next (showWord s.fsync.frames s)

/-- RD_OVERRUNS (42_register_reads.md R186). -/
def execRdOverruns (s : State) : Host.Outcome State Fault Refusal := .next (showWord s.fsync.overruns s)

/-- RD_TIMEOUTS (42_register_reads.md R187). -/
def execRdTimeouts (s : State) : Host.Outcome State Fault Refusal := .next (showWord s.fsync.timeouts s)

/-- RD_CONFIG (42_register_reads.md R188). -/
def execRdConfig (s : State) : Host.Outcome State Fault Refusal := .next (showWord (configWord s.params) s)

end Sys2Proof.Machine
end

