-- ==== Sys2Proof/Machine/Synchronizer.lean ====
section
/-! DEFINITION. The meanings of the CYC operations: one clock edge each (40_synchronizer.md R110; 70_reset_and_hazards.md
R230). -/

namespace Sys2Proof.Machine

/-- RESET (70_reset_and_hazards.md R230): every field of FSYNC to ResetState; T is unchanged (corner case d). -/
def execReset (s : State) : Host.Outcome State Fault Refusal :=
  .next { s with fsync := Fsync.reset }

/-- ERR (40_synchronizer.md R118): halt with cause 2. -/
def execErr (s : State) : Host.Outcome State Fault Refusal :=
  .next (clocked (haltLoop 2) s)

/-- EOS (40_synchronizer.md R117): halt with cause 1. -/
def execEos (s : State) : Host.Outcome State Fault Refusal :=
  .next (clocked (haltLoop 1) s)

/-- BYTE d (40_synchronizer.md R114): append, and the chunk is open; dropped while halted (R111). A tick in the same
cycle is ignored (R119). -/
def execByte (d : Byte) (_tick : Bool) (s : State) : Host.Outcome State Fault Refusal :=
  .next (clocked (acceptByte d) s)

/-- BYTE_LAST d (40_synchronizer.md R115): append, close the chunk and test the length; dropped while halted (R111). A
tick in the same cycle is ignored (R119). -/
def execByteLast (d : Byte) (_tick : Bool) (s : State) : Host.Outcome State Fault Refusal :=
  .next (clocked (acceptLastByte d) s)

/-- TICK (40_synchronizer.md R116). -/
def execTick (s : State) : Host.Outcome State Fault Refusal :=
  .next (clocked (tickTimer s.params.T) s)

/-- NOP (40_synchronizer.md R113): only the event flags are cleared. -/
def execNop (s : State) : Host.Outcome State Fault Refusal :=
  .next (clocked (fun f => f) s)

end Sys2Proof.Machine
end

