-- ==== Sys2Proof/Machine/Dispatch.lean ====
section
/-! DEFINITION. One arm per operation of Instr, each a call of its meaning. -/

namespace Sys2Proof.Machine

def exec (i : Instr) (s : State) : Host.Outcome State Fault Refusal :=
  match i with
  | .reset => Sys2Proof.Machine.execReset s
  | .err => Sys2Proof.Machine.execErr s
  | .eos => Sys2Proof.Machine.execEos s
  | .byte d tick => Sys2Proof.Machine.execByte d tick s
  | .byteLast d tick => Sys2Proof.Machine.execByteLast d tick s
  | .tick => Sys2Proof.Machine.execTick s
  | .nop => Sys2Proof.Machine.execNop s
  | .rdStatus => Sys2Proof.Machine.execRdStatus s
  | .rdFrameLo => Sys2Proof.Machine.execRdFrameLo s
  | .rdFrameHi => Sys2Proof.Machine.execRdFrameHi s
  | .rdSync => Sys2Proof.Machine.execRdSync s
  | .rdFrames => Sys2Proof.Machine.execRdFrames s
  | .rdOverruns => Sys2Proof.Machine.execRdOverruns s
  | .rdTimeouts => Sys2Proof.Machine.execRdTimeouts s
  | .rdConfig => Sys2Proof.Machine.execRdConfig s

end Sys2Proof.Machine
end

