-- ==== Sys2Proof/Machine/Operands.lean ====
section
/-! DEFINITION. Where a cycle's operations come from: the input ports (30_encoding.md R80, R81). The one operand, the data
byte of BYTE and BYTE_LAST (R84), is assembled by `pinRxData` in the decoder. -/

namespace Sys2Proof.Machine

/-- What the environment drives in the next cycle: the first listed cycle, and where none is listed, a free draw
(00_scope.md R6; log entries 1, 2). -/
def nextPins (s : State) : Pins :=
  match s.inputs with
  | p :: _ => p
  | [] => { vec := Config.freeVector s.draws, rdAddr := Config.freeRdAddr s.draws }

/-- The machine with that cycle taken. -/
def takeCycle (s : State) : State :=
  match s.inputs with
  | _ :: rest => { s with inputs := rest }
  | [] => { s with draws := s.draws + 1 }

/-- The machine whose next cycles the environment has decided to be `ps`, before those already listed. -/
def present (ps : List Pins) (s : State) : State := { s with inputs := ps ++ s.inputs }

end Sys2Proof.Machine
end

