-- ==== Sys2Proof/Machine/Step.lean ====
section
/-! DEFINITION. One step: one clock cycle (00_scope.md R6, R14), in which one RD access and one CYC operation happen and
the access sees the state before the operation (30_encoding.md R80; 42_register_reads.md R189). -/

namespace Sys2Proof.Machine

/-- One clock cycle: take what the environment drives, let the read port show its word, then the rising edge. -/
def step (s : State) : Host.Outcome State Fault Refusal :=
  match exec (decodeRd (nextPins s).rdAddr) (takeCycle s) with
  | .next read => exec (decodeCyc (nextPins s).vec) read
  | .fault r => .fault r
  | .refused r => .refused r

/-- The machine whose very next cycle presents the word `w` of an opcode-table row of `nbits` bits. A CYC vector replaces
the vector of the first listed cycle and keeps its read address (address 0 where none is listed); an RD address is
presented with the vector 0x0000, the READ line of 30_encoding.md R97. A word of neither format changes nothing. -/
def State.withFetchWord (s : State) (nbits w : Nat) : State :=
  match tablePortWord nbits w with
  | some (.cyc v) =>
    match s.inputs with
    | p :: rest => { s with inputs := { p with vec := v } :: rest }
    | [] => { s with inputs := [{ vec := v, rdAddr := 0 }] }
  | some (.rd a) => { s with inputs := { vec := 0x0000, rdAddr := a } :: s.inputs.tail }
  | none => s

end Sys2Proof.Machine
end

