-- ==== Sys2Proof/Machine/Climate.lean ====
section
/-! DEFINITION. The ClimateStatus record, a host-side reading of the STATUS word (41_status_decoder.md R163). No state holds
it: FSYNC stores the raw bits. -/

namespace Sys2Proof.Machine

inductive ClimateMode where
  | auto
  | manual
  deriving DecidableEq, Repr

/-- The names of the source's table (41_status_decoder.md R152, R163; log entry 8 on values 1 and 2). -/
inductive Airflow where
  | feet
  | face
  | feetDefrost
  | faceFeet
  deriving DecidableEq, Repr

inductive OnOff where
  | on
  | off
  deriving DecidableEq, Repr

inductive AirSource where
  | fresh
  | recirculate
  deriving DecidableEq, Repr

/-- The record {mode, airflowPosition, acState, frontDefrostState, rearDefrostState, airSource, temperature, fanSpeed};
the temperature is three nibbles, the third after the point. -/
structure ClimateStatus where
  mode : ClimateMode
  airflowPosition : Airflow
  acState : OnOff
  frontDefrostState : OnOff
  rearDefrostState : OnOff
  airSource : AirSource
  temperature : BitVec 4 × BitVec 4 × BitVec 4
  fanSpeed : BitVec 3
  deriving DecidableEq, Repr

/-- Raw 0 means On and raw 1 means Off (41_status_decoder.md R153 to R155). -/
def onOffOf (off : Bool) : OnOff := if off then .off else .on

/-- 0 Feet, 1 Face, 2 FeetDefrost, 3 FaceFeet (41_status_decoder.md R152). -/
def airflowOf (raw : BitVec 2) : Airflow :=
  match raw.toNat with
  | 0 => .feet
  | 1 => .face
  | 2 => .feetDefrost
  | _ => .faceFeet

/-- The record a STATUS word holds, none while VALID = 0 (41_status_decoder.md R163; 30_encoding.md R87). -/
def climateOf (w : Word) : Option ClimateStatus :=
  if w.getLsbD 31 then
    some
      { mode := if w.getLsbD 18 then .manual else .auto
        airflowPosition := airflowOf (w.extractLsb' 16 2)
        acState := onOffOf (w.getLsbD 19)
        frontDefrostState := onOffOf (w.getLsbD 20)
        rearDefrostState := onOffOf (w.getLsbD 21)
        airSource := if w.getLsbD 22 then .recirculate else .fresh
        temperature := (w.extractLsb' 8 4, w.extractLsb' 4 4, w.extractLsb' 0 4)
        fanSpeed := w.extractLsb' 12 3 }
  else none

/-- A digit of the temperature as the host shows it; the case of the letters is a free value (log entry 13). -/
def displayDigit (n : BitVec 4) : Char :=
  (if Config.displayCapitals then "0123456789ABCDEF" else "0123456789abcdef").toList.getD n.toNat '0'

/-- The temperature as the host shows it, two hexadecimal digits, a point and one more digit, then the unit
(41_status_decoder.md R164, informative). -/
def temperatureText (c : ClimateStatus) : String :=
  String.ofList
    [displayDigit c.temperature.1, displayDigit c.temperature.2.1, '.', displayDigit c.temperature.2.2, '°', 'C']

end Sys2Proof.Machine
end

