-- ==== Sys2Proof/Machine/Ports.lean ====
section
/-! DEFINITION. The output ports (10_state.md R44), each a view of the state. -/

namespace Sys2Proof.Machine

/-- The output ports in a cycle. -/
structure OutputPorts where
  frameValid : Bool
  frameData : FrameWord
  statusOut : Word
  evOverrun : Bool
  evTimeout : Bool
  evHalt : Bool
  rdData : Word
  deriving DecidableEq, Repr

/-- What the ports show in the cycle in which `s` is held (10_state.md R44). Only `rd_data` depends on an input, the read
address the environment drives in that cycle. -/
def outputPorts (s : State) : OutputPorts where
  frameValid := s.fsync.evFrame
  frameData := s.fsync.frame
  statusOut := s.fsync.status
  evOverrun := s.fsync.evOvr
  evTimeout := s.fsync.evTmo
  evHalt := s.fsync.evHalt
  rdData := regRead s (nextPins s).rdAddr

end Sys2Proof.Machine
end

