-- ==== Sys2Proof/Machine/Trace.lean ====
section
/-! DEFINITION. Input traces: what a line drives (30_encoding.md R97) and what a pseudo-operation stands for (R98). -/

namespace Sys2Proof.Machine

/-- The vector a trace line drives (30_encoding.md R97). -/
def lineVector : TraceLine → CycVector
  | .reset => 0x2000
  | .err => 0x0800
  | .eos => 0x1000
  | .byte d => 0x0400 ||| d.setWidth 14
  | .byteL d => 0x0600 ||| d.setWidth 14
  | .byteT d => 0x0500 ||| d.setWidth 14
  | .byteLT d => 0x0700 ||| d.setWidth 14
  | .tick => 0x0100
  | .nop => 0x0000
  | .read _ => 0x0000

/-- The operation a trace line stands for (30_encoding.md R97). -/
def lineInstr : TraceLine → Instr
  | .reset => .reset
  | .err => .err
  | .eos => .eos
  | .byte d => .byte d false
  | .byteL d => .byteLast d false
  | .byteT d => .byte d true
  | .byteLT d => .byteLast d true
  | .tick => .tick
  | .nop => .nop
  | .read _ => .nop

/-- The cycle a trace line drives. Only READ names a read address (30_encoding.md R97); `other` is the address the
environment drives in every other line. -/
def linePins (other : RdAddr) (l : TraceLine) : Pins where
  vec := lineVector l
  rdAddr :=
    match l with
    | .read r => addrOf r
    | _ => other

/-- `CHUNK b0, ..., bk`: BYTE lines and a last BYTEL (30_encoding.md R98). -/
def chunkLines : List Byte → List TraceLine
  | [] => []
  | [b] => [.byteL b]
  | b :: bs => .byte b :: chunkLines bs

/-- The lines of a pseudo-operation (30_encoding.md R98). -/
def expand : PseudoOp → List TraceLine
  | .chunk bs => chunkLines bs
  | .frame b0 b1 b2 b3 b4 b5 => chunkLines [b0, b1, b2, b3, b4, b5]
  | .stream bs => bs.map .byteL
  | .wait n => List.replicate n .tick
  | .idle n => List.replicate n .nop

/-- A hexadecimal digit. -/
def hexDigit (n : BitVec 4) : Char := "0123456789ABCDEF".toList.getD n.toNat '0'

/-- `0xHH` (30_encoding.md R97). -/
def hexByte (d : Byte) : String :=
  String.ofList ['0', 'x', hexDigit (d.extractLsb' 4 4), hexDigit (d.extractLsb' 0 4)]

/-- The name a READ line gives a register (30_encoding.md R97). -/
def regText : RegName → String
  | .STATUS => "STATUS"
  | .FRAME_LO => "FRAME_LO"
  | .FRAME_HI => "FRAME_HI"
  | .SYNC => "SYNC"
  | .FRAMES => "FRAMES"
  | .OVERRUNS => "OVERRUNS"
  | .TIMEOUTS => "TIMEOUTS"
  | .CONFIG => "CONFIG"

/-- The text of a trace line (30_encoding.md R97). -/
def lineText : TraceLine → String
  | .reset => "RESET"
  | .err => "ERR"
  | .eos => "EOS"
  | .byte d => "BYTE " ++ hexByte d
  | .byteL d => "BYTEL " ++ hexByte d
  | .byteT d => "BYTE+T " ++ hexByte d
  | .byteLT d => "BYTEL+T " ++ hexByte d
  | .tick => "TICK"
  | .nop => "NOP"
  | .read r => "READ " ++ regText r

end Sys2Proof.Machine
end

