-- ==== Sys2Proof/Safety.lean ====
section
/-! DEFINITION. The terms claims about FSYNC are made in: its invariants (10_state.md R47), runs of input cycles, what an
operation leaves unchanged, and what counts as seen from outside. -/

namespace Sys2Proof.Machine

/-! ## The invariants -/

/-- The eight invariants of 10_state.md R47, in its order, for the parameter T. -/
abbrev fsyncInv (T : BitVec 16) (f : Fsync) : Prop :=
  (f.halted = true →
      f.cnt = 0 ∧ f.chunkOpen = false ∧ f.idleCnt = 0 ∧ (f.haltCause = 1 ∨ f.haltCause = 2)) ∧
  (f.halted = false → f.haltCause = 0) ∧
  (f.chunkOpen = true → 1 ≤ f.cnt.toNat) ∧
  (f.chunkOpen = false → f.halted = false → f.cnt.toNat ≤ 5) ∧
  (f.idleCnt.toNat < T.toNat ∧ (f.idleCnt ≠ 0 → syncState f = .accum)) ∧
  [f.evFrame, f.evOvr, f.evTmo, f.evHalt].count true ≤ 1 ∧
  f.status = statusFor f.valid f.frame ∧
  (f.valid = false → f.frame = 0 ∧ f.frames = 0)

/-- The invariant of the machine: T is legal (00_scope.md R9) and R47 holds for it. -/
abbrev stateInv (s : State) : Prop := s.params.wellFormed = true ∧ fsyncInv s.params.T s.fsync

/-! ## Runs -/

/-- A safe step is one that answers a next state and keeps the invariant; FSYNC has no other way to go wrong
(60_exceptions.md R200). -/
abbrev safeStep (s : State) : Prop := ∃ t, step s = .next t ∧ stateInv t

/-- The machine after the environment has presented the cycles `ps`, one step each. -/
def runCycles (ps : List Pins) (s : State) : Host.Outcome State Fault Refusal :=
  Host.Core.run core ps.length (present ps s)

/-- The operation of a cycle. -/
def opOf (p : Pins) : Instr := decodeCyc p.vec

/-- Is the operation a byte, BYTE or BYTE_LAST? -/
def isByteOp : Instr → Bool
  | .byte _ _ => true
  | .byteLast _ _ => true
  | _ => false

/-- TICK or NOP: no byte, no RESET, no EOS and no ERR (40_synchronizer.md R127). -/
def isQuiet : Instr → Bool
  | .tick => true
  | .nop => true
  | _ => false

/-- How many of the cycles are TICK operations. -/
def tickCount (ps : List Pins) : Nat := ps.countP fun p => opOf p == .tick

/-- How many of the cycles are byte operations. -/
def byteCount (ps : List Pins) : Nat := ps.countP fun p => isByteOp (opOf p)

/-- How many frames are emitted while the cycles `ps` are presented: the cycles whose step sets `ev_frame`
(10_state.md R43). -/
def emissions : List Pins → State → Nat
  | [], _ => 0
  | p :: ps, s =>
    match runCycles [p] s with
    | .next t => (if t.fsync.evFrame then 1 else 0) + emissions ps t
    | _ => 0

/-- How many accepted bytes reach FSYNC while `ps` are presented: byte operations not dropped by HALTED
(40_synchronizer.md R111). -/
def acceptedBytes : List Pins → State → Nat
  | [], _ => 0
  | p :: ps, s =>
    match runCycles [p] s with
    | .next t => (if isByteOp (opOf p) && !s.fsync.halted then 1 else 0) + acceptedBytes ps t
    | _ => 0

/-- A cycle of a CHUNK: byte `b`, BYTE_LAST when `last`, at any read address. -/
def bytePins (last : Bool) (b : Byte) (a : RdAddr) : Pins := { vec := byteVector last false b, rdAddr := a }

/-- One byte of a frame as a byte source may deliver it: whether it closes its chunk, and the quiet cycles that follow
it. -/
structure Delivery where
  byte : Byte
  last : Bool
  rdAddr : RdAddr
  gap : List Pins
  deriving DecidableEq, Repr

/-- The cycles of a delivery. -/
def Delivery.cycles (d : Delivery) : List Pins := bytePins d.last d.byte d.rdAddr :: d.gap

/-! ## What stays and what is seen -/

/-- No event flag is set. -/
abbrev noEvent (f : Fsync) : Prop :=
  f.evFrame = false ∧ f.evOvr = false ∧ f.evTmo = false ∧ f.evHalt = false

/-- The last emitted frame and its record are the same in both. -/
abbrev sameRecord (f g : Fsync) : Prop :=
  g.frame = f.frame ∧ g.valid = f.valid ∧ g.status = f.status

/-- The three counters are the same in both. -/
abbrev sameCounters (f g : Fsync) : Prop :=
  g.frames = f.frames ∧ g.overruns = f.overruns ∧ g.timeouts = f.timeouts

/-- The halt fields are the same in both. -/
abbrev sameHalt (f g : Fsync) : Prop := g.halted = f.halted ∧ g.haltCause = f.haltCause

/-- The parameters, the environment and the read port's word are the same in both. -/
abbrev sameSurroundings (s t : State) : Prop :=
  t.params = s.params ∧ t.inputs = s.inputs ∧ t.draws = s.draws ∧ t.rdData = s.rdData

/-- Everything of FSYNC is the same in both but the event flags. -/
abbrev sameButEvents (f g : Fsync) : Prop :=
  g.buf = f.buf ∧ g.cnt = f.cnt ∧ g.chunkOpen = f.chunkOpen ∧ g.idleCnt = f.idleCnt ∧ sameHalt f g ∧
  sameRecord f g ∧ sameCounters f g

/-- From `s` to `t` the receive loop was ended with cause `c`: the partial buffer is dropped and not counted, only
`ev_halt` is set, and the last record and the counters stay (40_synchronizer.md R125). -/
abbrev haltEntered (c : BitVec 2) (s t : State) : Prop :=
  t.fsync.halted = true ∧ t.fsync.haltCause = c ∧ t.fsync.cnt = 0 ∧ t.fsync.chunkOpen = false ∧ t.fsync.idleCnt = 0 ∧
  t.fsync.evHalt = true ∧ t.fsync.evFrame = false ∧ t.fsync.evOvr = false ∧ t.fsync.evTmo = false ∧
  t.fsync.buf = s.fsync.buf ∧ sameRecord s.fsync t.fsync ∧ sameCounters s.fsync t.fsync ∧ sameSurroundings s t

/-- `s` with nothing changed but its event flags cleared (40_synchronizer.md R110, R113). -/
abbrev onlyEventsCleared (s : State) : State :=
  { s with fsync := { s.fsync with evFrame := false, evOvr := false, evTmo := false, evHalt := false } }

/-- The two differ at most in stale buffer bytes, those at indices from min(cnt, 6) on (10_state.md R35). -/
abbrev sameButStale (f g : Fsync) : Prop :=
  { g with buf := f.buf } = f ∧ ∀ i : Fin 6, i.val < f.cnt.toNat → g.buf[i] = f.buf[i]

/-- The two states look the same through every port and every read address. -/
abbrev looksSame (s t : State) : Prop :=
  (∀ a, regRead t a = regRead s a) ∧ t.fsync.evFrame = s.fsync.evFrame ∧ t.fsync.frame = s.fsync.frame ∧
  t.fsync.status = s.fsync.status ∧ t.fsync.evOvr = s.fsync.evOvr ∧ t.fsync.evTmo = s.fsync.evTmo ∧
  t.fsync.evHalt = s.fsync.evHalt

end Sys2Proof.Machine
end

