-- ==== Sys2Proof/Certificates/Slice0/Obligations.lean ====
section
/-! DEFINITION. The statements about FSYNC for the provers. Each docstring names the rule of spec/ the statement
formalises or rests on. -/

open Sys2Proof Sys2Proof.Machine

/-! ## Reset -/

/-- R48, the reset state, and that it is IDLE. -/
def Obligations.ResetStateValues : Prop :=
  State.reset.fsync =
      { buf := #v[0x00, 0x00, 0x00, 0x00, 0x00, 0x00], cnt := 0, chunkOpen := false, idleCnt := 0
        halted := false, haltCause := 0, frame := 0, valid := false, status := 0x00000000
        frames := 0, overruns := 0, timeouts := 0
        evFrame := false, evOvr := false, evTmo := false, evHalt := false } ∧
    syncState State.reset.fsync = .idle

/-- R230: every vector with bit 13 set is RESET, whatever else it holds; RESET completes from every state, a halted one
too, with every field at its reset value and T unchanged; SYNC, STATUS and FRAMES then read 0. -/
def Obligations.ResetOperationGivesResetState : Prop :=
  (∀ v : CycVector, v &&& 0x2000 = 0x2000 → decodeCyc v = .reset) ∧
  ∀ s : State, ∃ t, exec .reset s = .next t ∧
    t.fsync =
      { buf := #v[0x00, 0x00, 0x00, 0x00, 0x00, 0x00], cnt := 0, chunkOpen := false, idleCnt := 0
        halted := false, haltCause := 0, frame := 0, valid := false, status := 0x00000000
        frames := 0, overruns := 0, timeouts := 0
        evFrame := false, evOvr := false, evTmo := false, evHalt := false } ∧
    syncState t.fsync = .idle ∧ sameSurroundings s t ∧
    regRead t 3 = 0x00000000 ∧ regRead t 0 = 0x00000000 ∧ regRead t 4 = 0 ∧ regRead t 7 = regRead s 7

/-- R231: while `rst` stays 1, every step gives ResetState, from whatever state, the unspecified one at power-up (R232)
included. -/
def Obligations.ResetHeldKeepsResetState : Prop :=
  ∀ (ps : List Pins) (s : State), ps ≠ [] → (∀ p ∈ ps, p.vec.getLsbD 13 = true) →
    ∃ t, runCycles ps s = .next t ∧ t.fsync = Fsync.reset ∧
      (s.params.wellFormed = true → stateInv t)

/-! ## The operations of the synchronizer -/

/-- R113: NOP, its encoding and its whole effect. -/
def Obligations.NopOnlyClearsEventFlags : Prop :=
  (∀ v : CycVector, v &&& 0x3D00 = 0x0000 → decodeCyc v = .nop) ∧
  ∀ s : State, exec .nop s = .next (onlyEventsCleared s)

/-- R114 with R112: BYTE, its encoding and operand, and its whole effect: the byte is stored at index cnt if it is one of
the first six, counted saturating at 7, cancels the idle timer and holds the chunk open; while halted it is dropped. -/
def Obligations.ByteStoresCountsAndOpensChunk : Prop :=
  (∀ v : CycVector, v &&& 0x3E00 = 0x0400 → decodeCyc v = .byte (v.extractLsb' 0 8) (v.getLsbD 8)) ∧
  ∀ (d : Byte) (tick : Bool) (s : State),
    (s.fsync.halted = true → exec (.byte d tick) s = .next (onlyEventsCleared s)) ∧
    (s.fsync.halted = false →
      ∃ t, exec (.byte d tick) s = .next t ∧
        (∀ j : Fin 6, t.fsync.buf[j] = if j.val = s.fsync.cnt.toNat then d else s.fsync.buf[j]) ∧
        t.fsync.cnt.toNat = min (s.fsync.cnt.toNat + 1) 7 ∧ t.fsync.chunkOpen = true ∧ t.fsync.idleCnt = 0 ∧
        syncState t.fsync = .recv ∧ noEvent t.fsync ∧ sameHalt s.fsync t.fsync ∧ sameRecord s.fsync t.fsync ∧
        sameCounters s.fsync t.fsync ∧ sameSurroundings s t)

/-- R115 with R120 to R123: BYTE_LAST, its encoding and operand, and its whole effect by the count n after the byte: a
frame at 6, an overrun at 7, the timer armed at 1 to 5; while halted the byte is dropped. -/
def Obligations.ByteLastEvaluatesTheChunk : Prop :=
  (∀ v : CycVector, v &&& 0x3E00 = 0x0600 → decodeCyc v = .byteLast (v.extractLsb' 0 8) (v.getLsbD 8)) ∧
  ∀ (d : Byte) (tick : Bool) (s : State),
    (s.fsync.halted = true → exec (.byteLast d tick) s = .next (onlyEventsCleared s)) ∧
    (s.fsync.halted = false →
      ∃ t, exec (.byteLast d tick) s = .next t ∧
        (∀ j : Fin 6, t.fsync.buf[j] = if j.val = s.fsync.cnt.toNat then d else s.fsync.buf[j]) ∧
        t.fsync.chunkOpen = false ∧ t.fsync.idleCnt = 0 ∧ sameHalt s.fsync t.fsync ∧ sameSurroundings s t ∧
        t.fsync.evTmo = false ∧ t.fsync.evHalt = false ∧
        (min (s.fsync.cnt.toNat + 1) 7 = 6 →
          t.fsync.cnt = 0 ∧ syncState t.fsync = .idle ∧ (∀ k : Fin 6, frameByte t.fsync.frame k = t.fsync.buf[k]) ∧
          t.fsync.valid = true ∧ t.fsync.status = extract t.fsync.frame ||| 0x80000000 ∧
          t.fsync.frames = s.fsync.frames + 1 ∧ t.fsync.overruns = s.fsync.overruns ∧
          t.fsync.timeouts = s.fsync.timeouts ∧ t.fsync.evFrame = true ∧ t.fsync.evOvr = false) ∧
        (min (s.fsync.cnt.toNat + 1) 7 = 7 →
          t.fsync.cnt = 0 ∧ syncState t.fsync = .idle ∧ sameRecord s.fsync t.fsync ∧
          t.fsync.frames = s.fsync.frames ∧ t.fsync.overruns = s.fsync.overruns + 1 ∧
          t.fsync.timeouts = s.fsync.timeouts ∧ t.fsync.evFrame = false ∧ t.fsync.evOvr = true) ∧
        (min (s.fsync.cnt.toNat + 1) 7 ≤ 5 →
          t.fsync.cnt.toNat = s.fsync.cnt.toNat + 1 ∧ syncState t.fsync = .accum ∧ sameRecord s.fsync t.fsync ∧
          sameCounters s.fsync t.fsync ∧ t.fsync.evFrame = false ∧ t.fsync.evOvr = false))

/-- From R116, R124 and R13: TICK, its encoding and its whole effect: outside ACCUM nothing but the flags, in ACCUM the timer
counts, and the T-th tick discards the buffer. R116 counts on idle_cnt < T; this statement has no such premise, and where
that fails idle_cnt + 1 is taken modulo 2^16 as R13 has it, which is the model's inference (log entry 12, DEDUCED). -/
def Obligations.TickCountsAndExpiresInAccumOnly : Prop :=
  (∀ v : CycVector, v &&& 0x3D00 = 0x0100 → decodeCyc v = .tick) ∧
  ∀ s : State,
    (syncState s.fsync ≠ .accum → exec .tick s = .next (onlyEventsCleared s)) ∧
    (syncState s.fsync = .accum → s.fsync.idleCnt + 1 ≠ s.params.T →
      ∃ t, exec .tick s = .next t ∧ t.fsync.idleCnt = s.fsync.idleCnt + 1 ∧ noEvent t.fsync ∧
        t = { onlyEventsCleared s with fsync := { (onlyEventsCleared s).fsync with idleCnt := t.fsync.idleCnt } }) ∧
    (syncState s.fsync = .accum → s.fsync.idleCnt + 1 = s.params.T →
      ∃ t, exec .tick s = .next t ∧ t.fsync.cnt = 0 ∧ t.fsync.idleCnt = 0 ∧ syncState t.fsync = .idle ∧
        t.fsync.timeouts = s.fsync.timeouts + 1 ∧ t.fsync.evTmo = true ∧ t.fsync.evFrame = false ∧
        t.fsync.evOvr = false ∧ t.fsync.evHalt = false ∧ t.fsync.buf = s.fsync.buf ∧
        t.fsync.chunkOpen = s.fsync.chunkOpen ∧ sameHalt s.fsync t.fsync ∧ sameRecord s.fsync t.fsync ∧
        t.fsync.frames = s.fsync.frames ∧ t.fsync.overruns = s.fsync.overruns ∧ sameSurroundings s t)

/-- R117 with R125: EOS, its encoding and its whole effect. -/
def Obligations.EosHaltsWithCauseOne : Prop :=
  (∀ v : CycVector, v &&& 0x3800 = 0x1000 → decodeCyc v = .eos) ∧
  ∀ s : State,
    (s.fsync.halted = false → ∃ t, exec .eos s = .next t ∧ haltEntered 1 s t) ∧
    (s.fsync.halted = true → exec .eos s = .next (onlyEventsCleared s))

/-- R118 with R125: ERR, its encoding (over EOS in the same cycle) and its whole effect. -/
def Obligations.ErrHaltsWithCauseTwo : Prop :=
  (∀ v : CycVector, v &&& 0x2800 = 0x0800 → decodeCyc v = .err) ∧
  ∀ s : State,
    (s.fsync.halted = false → ∃ t, exec .err s = .next t ∧ haltEntered 2 s t) ∧
    (s.fsync.halted = true → exec .err s = .next (onlyEventsCleared s))

/-- R111 and R235: in HALTED no run of operations other than RESET changes anything but the event flags, which are all 0
after it; and one RESET leaves HALTED. -/
def Obligations.HaltedIsLeftOnlyByReset : Prop :=
  ∀ s : State, s.fsync.halted = true →
    (∀ ps : List Pins, ps ≠ [] → (∀ p ∈ ps, opOf p ≠ .reset) →
      ∃ t, runCycles ps s = .next t ∧ sameButEvents s.fsync t.fsync ∧ noEvent t.fsync) ∧
    (∀ p : Pins, opOf p = .reset → ∃ t, runCycles [p] s = .next t ∧ t.fsync.halted = false ∧ t.fsync.haltCause = 0)

/-! ## The read port -/

/-- R181 with the STATUS layout R87: RD_STATUS shows `status` and changes nothing else; where the invariants of R47 hold,
each field of the word is the frame's, and the word is 0 until the first emission; an overrun, a timeout or a halt leaves
the word as it was. -/
def Obligations.RdStatusShowsTheRecord : Prop :=
  decodeRd 0 = .rdStatus ∧
  ∀ s : State, exec .rdStatus s = .next { s with rdData := s.fsync.status } ∧
    (stateInv s → s.fsync.valid = false → s.fsync.status = 0x00000000) ∧
    (stateInv s →
      s.fsync.status.extractLsb' 0 4 = (frameByte s.fsync.frame 3).extractLsb' 0 4 ∧
      s.fsync.status.extractLsb' 4 4 = (frameByte s.fsync.frame 2).extractLsb' 0 4 ∧
      s.fsync.status.extractLsb' 8 4 = (frameByte s.fsync.frame 1).extractLsb' 0 4 ∧
      s.fsync.status.extractLsb' 12 3 =
        (if (frameByte s.fsync.frame 2).extractLsb' 4 3 = 7 then 0
          else (frameByte s.fsync.frame 2).extractLsb' 4 3) ∧
      s.fsync.status.getLsbD 15 = false ∧
      s.fsync.status.extractLsb' 16 2 = (frameByte s.fsync.frame 4).extractLsb' 0 2 ∧
      s.fsync.status.getLsbD 18 = (frameByte s.fsync.frame 3).getLsbD 6 ∧
      s.fsync.status.getLsbD 19 = (frameByte s.fsync.frame 3).getLsbD 5 ∧
      s.fsync.status.getLsbD 20 = (frameByte s.fsync.frame 4).getLsbD 6 ∧
      s.fsync.status.getLsbD 21 = (frameByte s.fsync.frame 4).getLsbD 5 ∧
      s.fsync.status.getLsbD 22 = (frameByte s.fsync.frame 4).getLsbD 3 ∧
      s.fsync.status.extractLsb' 23 8 = 0 ∧
      s.fsync.status.getLsbD 31 = s.fsync.valid) ∧
    ∀ t, step s = .next t → (t.fsync.evOvr = true ∨ t.fsync.evTmo = true ∨ t.fsync.evHalt = true) →
      t.fsync.status = s.fsync.status

/-- R182, R183 with R88, R89 and R62: RD_FRAME_LO and RD_FRAME_HI show the frame's bytes in arrival order, byte 0 lowest,
and change nothing else; 0 until the first emission where R47 holds. -/
def Obligations.RdFrameShowsTheBytesInOrder : Prop :=
  decodeRd 1 = .rdFrameLo ∧ decodeRd 2 = .rdFrameHi ∧
  ∀ s : State, ∃ lo hi : Word,
    exec .rdFrameLo s = .next { s with rdData := lo } ∧ exec .rdFrameHi s = .next { s with rdData := hi } ∧
    lo.extractLsb' 0 8 = frameByte s.fsync.frame 0 ∧ lo.extractLsb' 8 8 = frameByte s.fsync.frame 1 ∧
    lo.extractLsb' 16 8 = frameByte s.fsync.frame 2 ∧ lo.extractLsb' 24 8 = frameByte s.fsync.frame 3 ∧
    hi.extractLsb' 0 8 = frameByte s.fsync.frame 4 ∧ hi.extractLsb' 8 8 = frameByte s.fsync.frame 5 ∧
    hi.extractLsb' 16 16 = 0 ∧ (stateInv s → s.fsync.valid = false → lo = 0 ∧ hi = 0)

/-- R184 with R90 and R91: RD_SYNC shows the synchronizer word, bit by bit, and clears no flag; where R47 holds STATE is
never RESYNC or a reserved code, CNT is 6 or 7 only in RECV and IDLE_CNT is not 0 only in ACCUM. -/
def Obligations.RdSyncShowsTheSynchronizerWord : Prop :=
  decodeRd 3 = .rdSync ∧
  ∀ s : State, ∃ w : Word, exec .rdSync s = .next { s with rdData := w } ∧
    w.extractLsb' 0 3 =
      (if s.fsync.halted then 4 else if s.fsync.chunkOpen then 2 else if s.fsync.cnt = 0 then 0 else 1) ∧
    w.getLsbD 3 = false ∧ w.extractLsb' 4 3 = s.fsync.cnt ∧ w.getLsbD 7 = false ∧
    w.extractLsb' 8 2 = s.fsync.haltCause ∧ w.extractLsb' 10 2 = 0 ∧
    w.getLsbD 12 = s.fsync.evFrame ∧ w.getLsbD 13 = s.fsync.evOvr ∧ w.getLsbD 14 = s.fsync.evTmo ∧
    w.getLsbD 15 = s.fsync.evHalt ∧ w.extractLsb' 16 16 = s.fsync.idleCnt ∧
    (stateInv s →
      (6 ≤ s.fsync.cnt.toNat → w.extractLsb' 0 3 = 2) ∧ (s.fsync.idleCnt ≠ 0 → w.extractLsb' 0 3 = 1))

/-- R93 (R185 to R187): the three counters read as whole words, and reading changes nothing else. -/
def Obligations.RdCountersShowTheCounters : Prop :=
  decodeRd 4 = .rdFrames ∧ decodeRd 5 = .rdOverruns ∧ decodeRd 6 = .rdTimeouts ∧
  ∀ s : State,
    exec .rdFrames s = .next { s with rdData := s.fsync.frames } ∧
    exec .rdOverruns s = .next { s with rdData := s.fsync.overruns } ∧
    exec .rdTimeouts s = .next { s with rdData := s.fsync.timeouts }

/-- R188 with R94: RD_CONFIG shows T and FRAME_LEN, is the same after every step and after RESET, and changes nothing
else. -/
def Obligations.RdConfigShowsTheParameters : Prop :=
  decodeRd 7 = .rdConfig ∧
  ∀ s : State, ∃ w : Word, exec .rdConfig s = .next { s with rdData := w } ∧
    w.extractLsb' 0 16 = s.params.T ∧ w.extractLsb' 16 4 = 6 ∧ w.extractLsb' 20 12 = 0 ∧
    (∀ t, exec .reset s = .next t → exec .rdConfig t = .next { t with rdData := w }) ∧
    ∀ t, step s = .next t → exec .rdConfig t = .next { t with rdData := w }

/-- R64: an access changes no field of FSYNC and clears no flag, and after any access each address still reads the same
word; and the address driven in a cycle has no part in what the cycle's edge does. -/
def Obligations.ReadsHaveNoSideEffect : Prop :=
  (∀ (s : State) (a b : RdAddr) (u : State), exec (decodeRd b) s = .next u →
    u = { s with rdData := u.rdData } ∧
    ∃ w, exec (decodeRd a) s = .next { s with rdData := w } ∧ exec (decodeRd a) u = .next { u with rdData := w }) ∧
  ∀ (s t t' : State) (v : CycVector) (a b : RdAddr),
    runCycles [{ vec := v, rdAddr := a }] s = .next t → runCycles [{ vec := v, rdAddr := b }] s = .next t' →
    t' = { t with rdData := t'.rdData }

/-- R180 and R189: the word the port shows in a cycle is RegRead of the state before the cycle's operation, whatever that
operation is; so the BYTE_LAST that completes a frame, read at address 0 in its own cycle, shows the previous STATUS, and
the next cycle shows the new one. -/
def Obligations.ReadSeesTheStateBeforeTheEdge : Prop :=
  (∀ s t : State, step s = .next t → t.rdData = regRead s (nextPins s).rdAddr) ∧
  ∀ (p q : Pins) (s t u : State), p.rdAddr = 0 → q.rdAddr = 0 → runCycles [p] s = .next t →
    runCycles [q] t = .next u → t.rdData = s.fsync.status ∧ u.rdData = t.fsync.status

/-- R95: where the invariants of R47 hold, every reserved register bit reads 0, STATE is 0, 1, 2 or 4 and HALT_CAUSE is
not 3. -/
def Obligations.ReservedBitsReadZero : Prop :=
  ∀ s : State, stateInv s →
    (regRead s 0).getLsbD 15 = false ∧ (regRead s 0).extractLsb' 23 8 = 0 ∧
    (regRead s 2).extractLsb' 16 16 = 0 ∧
    (regRead s 3).getLsbD 3 = false ∧ (regRead s 3).getLsbD 7 = false ∧ (regRead s 3).extractLsb' 10 2 = 0 ∧
    (regRead s 7).extractLsb' 20 12 = 0 ∧
    ((regRead s 3).extractLsb' 0 3 = 0 ∨ (regRead s 3).extractLsb' 0 3 = 1 ∨ (regRead s 3).extractLsb' 0 3 = 2 ∨
      (regRead s 3).extractLsb' 0 3 = 4) ∧
    (regRead s 3).extractLsb' 8 2 ≠ 3

/-- R44: every output port, and that only `rd_data` depends on an input. -/
def Obligations.OutputPortsAreViewsOfState : Prop :=
  (∀ s : State, outputPorts s =
    { frameValid := s.fsync.evFrame, frameData := s.fsync.frame, statusOut := s.fsync.status
      evOverrun := s.fsync.evOvr, evTimeout := s.fsync.evTmo, evHalt := s.fsync.evHalt
      rdData := regRead s (nextPins s).rdAddr }) ∧
  ∀ s s' : State, s'.fsync = s.fsync → s'.params = s.params →
    outputPorts s' = { outputPorts s with rdData := (outputPorts s').rdData } ∧
    ((nextPins s').rdAddr = (nextPins s).rdAddr → outputPorts s' = outputPorts s)

/-! ## The step -/

/-- R80 and R110, in this model's terms (log entry 1): a step takes the next cycle from the environment, does the RD access
at its address on the state before the edge, and runs the operation its vector decodes to. -/
def Obligations.StepRunsTheDecodedOperations : Prop :=
  ∀ s : State, ∃ read,
    exec (decodeRd (nextPins s).rdAddr) (takeCycle s) = .next read ∧
    step s = exec (decodeCyc (nextPins s).vec) read ∧
    (∀ p rest, s.inputs = p :: rest → nextPins s = p ∧ takeCycle s = { s with inputs := rest })

/-- The model's own (log entry 1): placing an opcode-table word where the step takes its next cycle makes the next step
run the operation the word decodes to; an RD word is run in a NOP cycle, as the READ line of R97. -/
def Obligations.PlacedWordIsRunByTheNextStep : Prop :=
  (∀ (s : State) (w : Nat) (i : Instr), decodeTableWord 16 w = some i →
    ∃ read, step (s.withFetchWord 16 w) = exec i read ∧ read.fsync = s.fsync ∧ read.params = s.params ∧
      read.inputs = s.inputs.tail ∧ read.draws = s.draws) ∧
  ∀ (s : State) (w : Nat) (i : Instr), decodeTableWord 8 w = some i →
    ∃ u, exec i s = .next u ∧
      step (s.withFetchWord 8 w) = .next { onlyEventsCleared s with inputs := s.inputs.tail, rdData := u.rdData }

/-- R66: of two machines with the same T and the same FSYNC state, driven with the same vector, one step leaves the same
FSYNC state, whatever the read addresses and everything else; and no step changes T. -/
def Obligations.OnlyTheVectorChangesFsync : Prop :=
  ∀ s s' t t' : State, s'.params = s.params → s'.fsync = s.fsync → (nextPins s').vec = (nextPins s).vec →
    step s = .next t → step s' = .next t' →
    t'.fsync = t.fsync ∧ t.params = s.params

/-- R200 and R248: no run of cycles, of whatever length and from whatever state, stops. -/
def Obligations.FsyncNeverStops : Prop :=
  ∀ (k : Nat) (s : State), ∃ t, Host.Core.run core k s = .next t ∧ t.params = s.params

/-! ## Invariants -/

/-- R47 at the reset state, for every legal T. -/
def Obligations.ResetStateMeetsInvariants : Prop :=
  stateInv State.reset ∧
  ∀ s : State, s.params.wellFormed = true → s.fsync = Fsync.reset → stateInv s

/-- R47 is inductive: every step, on whatever the environment drives, keeps the eight invariants and a legal T. -/
def Obligations.EveryStepKeepsInvariants : Prop :=
  ∀ s t : State, stateInv s → step s = .next t → stateInv t

/-- R47: every state reachable from the reset state, for every legal T and every sequence of inputs, satisfies the eight
invariants; and every further step from it is safe. -/
def Obligations.ReachableStatesMeetInvariants : Prop :=
  ∀ (k : Nat) (s t : State), s.params.wellFormed = true → s.fsync = Fsync.reset →
    Host.Core.run core k s = .next t → stateInv t ∧ safeStep t

/-- R42: in every step but RESET each counter goes up by 1 modulo 2^32 exactly when its event's flag is set after the
step, and else stays; RESET clears them; a timeout drops a non-empty buffer. -/
def Obligations.CountersCountTheirEvents : Prop :=
  ∀ s t : State, step s = .next t →
    (decodeCyc (nextPins s).vec = .reset → t.fsync.frames = 0 ∧ t.fsync.overruns = 0 ∧ t.fsync.timeouts = 0) ∧
    (decodeCyc (nextPins s).vec ≠ .reset →
      t.fsync.frames = s.fsync.frames + (if t.fsync.evFrame then 1 else 0) ∧
      t.fsync.overruns = s.fsync.overruns + (if t.fsync.evOvr then 1 else 0) ∧
      t.fsync.timeouts = s.fsync.timeouts + (if t.fsync.evTmo then 1 else 0) ∧
      (t.fsync.evTmo = true → s.fsync.cnt ≠ 0))

/-- R39 and R166: `frame`, `valid` and `status` change in no step but an emission and RESET; an emission loads the six
buffered bytes, byte i at bits 8i+7..8i, and their decoded record; `frame` is 0 until the first emission. -/
def Obligations.RecordChangesOnlyAtEmission : Prop :=
  ∀ s t : State, step s = .next t →
    (decodeCyc (nextPins s).vec ≠ .reset → t.fsync.evFrame = false → sameRecord s.fsync t.fsync) ∧
    (t.fsync.evFrame = true →
      (∀ k : Fin 6, frameByte t.fsync.frame k = t.fsync.buf[k]) ∧ t.fsync.valid = true ∧
      t.fsync.status = extract t.fsync.frame ||| 0x80000000) ∧
    (stateInv t → t.fsync.valid = false → t.fsync.frame = 0)

/-- R38: `halted` and `halt_cause` change only through EOS, ERR and RESET; the cause says which, the first is kept, and
where R47 holds it is never 3 and is 0 exactly while not halted. -/
def Obligations.HaltFieldsChangeOnlyByEosErrReset : Prop :=
  (∀ s t : State, step s = .next t →
    match decodeCyc (nextPins s).vec with
    | .reset => t.fsync.halted = false ∧ t.fsync.haltCause = 0
    | .eos => t.fsync.halted = true ∧ t.fsync.haltCause = (if s.fsync.halted then s.fsync.haltCause else 1)
    | .err => t.fsync.halted = true ∧ t.fsync.haltCause = (if s.fsync.halted then s.fsync.haltCause else 2)
    | _ => sameHalt s.fsync t.fsync) ∧
  ∀ s : State, stateInv s → s.fsync.haltCause ≠ 3 ∧ (s.fsync.haltCause = 0 ↔ s.fsync.halted = false)

/-- R131, the transition table of the four synchronizer states, for every state that meets R47; n is the count after
Append. -/
def Obligations.TransitionTable : Prop :=
  ∀ s t : State, stateInv s → step s = .next t →
    match decodeCyc (nextPins s).vec with
    | .reset => syncState t.fsync = .idle ∧ t.fsync = Fsync.reset
    | .err => syncState t.fsync = .halted ∧ t.fsync.cnt = 0 ∧ t.fsync.evHalt = !s.fsync.halted
    | .eos => syncState t.fsync = .halted ∧ t.fsync.cnt = 0 ∧ t.fsync.evHalt = !s.fsync.halted
    | .byte _ _ =>
      if syncState s.fsync = .halted then syncState t.fsync = .halted
      else syncState t.fsync = .recv ∧ t.fsync.cnt.toNat = min (s.fsync.cnt.toNat + 1) 7 ∧
        (syncState s.fsync = .idle → t.fsync.cnt = 1)
    | .byteLast _ _ =>
      if syncState s.fsync = .halted then syncState t.fsync = .halted
      else if s.fsync.cnt.toNat + 1 = 6 then syncState t.fsync = .idle ∧ t.fsync.evFrame = true
      else if 7 ≤ s.fsync.cnt.toNat + 1 then
        syncState s.fsync = .recv ∧ syncState t.fsync = .idle ∧ t.fsync.evOvr = true
      else syncState t.fsync = .accum ∧ t.fsync.cnt.toNat = s.fsync.cnt.toNat + 1 ∧ t.fsync.idleCnt = 0
    | .tick =>
      if syncState s.fsync = .accum then
        if s.fsync.idleCnt.toNat + 1 = s.params.T.toNat then syncState t.fsync = .idle ∧ t.fsync.evTmo = true
        else syncState t.fsync = .accum ∧ t.fsync.idleCnt.toNat = s.fsync.idleCnt.toNat + 1
      else syncState t.fsync = syncState s.fsync
    | _ => syncState t.fsync = syncState s.fsync

/-- R119 and R245: a tick in the cycle of a byte has no effect at all; such a step never times out and leaves the timer at
0 when the byte is accepted. -/
def Obligations.ByteBeatsTick : Prop :=
  (∀ (d : Byte) (s : State),
    exec (.byte d true) s = exec (.byte d false) s ∧ exec (.byteLast d true) s = exec (.byteLast d false) s) ∧
  ∀ s t : State, step s = .next t → isByteOp (decodeCyc (nextPins s).vec) = true →
    t.fsync.timeouts = s.fsync.timeouts ∧ t.fsync.evTmo = false ∧
    (s.fsync.halted = false → t.fsync.idleCnt = 0)

/-- R205: a step produces at most one event; an emission or an overrun comes from BYTE_LAST only, a timeout from TICK only,
a halt from EOS or ERR only. -/
def Obligations.AtMostOneEventPerStep : Prop :=
  ∀ s t : State, step s = .next t →
    [t.fsync.evFrame, t.fsync.evOvr, t.fsync.evTmo, t.fsync.evHalt].count true ≤ 1 ∧
    (t.fsync.evFrame = true ∨ t.fsync.evOvr = true →
      ∃ d tick, decodeCyc (nextPins s).vec = .byteLast d tick) ∧
    (t.fsync.evTmo = true → decodeCyc (nextPins s).vec = .tick) ∧
    (t.fsync.evHalt = true → decodeCyc (nextPins s).vec = .eos ∨ decodeCyc (nextPins s).vec = .err)

/-- R126: only Emit, Overrun, Timeout, Halt and RESET start a new buffer generation, and the byte accepted next is stored
as buf[0], whatever its value. -/
def Obligations.NewGenerationOnlyByEventOrReset : Prop :=
  (∀ s t : State, step s = .next t → s.fsync.cnt ≠ 0 → t.fsync.cnt = 0 →
    decodeCyc (nextPins s).vec = .reset ∨ t.fsync.evFrame = true ∨ t.fsync.evOvr = true ∨ t.fsync.evTmo = true ∨
    t.fsync.evHalt = true) ∧
  (∀ s t : State, step s = .next t →
    (t.fsync.evFrame = true ∨ t.fsync.evOvr = true ∨ t.fsync.evTmo = true ∨ t.fsync.evHalt = true) →
    t.fsync.cnt = 0) ∧
  ∀ (s t : State) (d : Byte) (tick : Bool), s.fsync.cnt = 0 → s.fsync.halted = false →
    (exec (.byte d tick) s = .next t ∨ exec (.byteLast d tick) s = .next t) →
    t.fsync.buf[0] = d ∧ t.fsync.cnt = 1

/-! ## Encodings -/

/-- R82: for every one of the 2^14 vectors and every row of the operation map, the vector decodes to the row's operation
exactly when it matches the row's mask; the operand is bits 7:0, and bit 8 of a byte's vector makes no difference to what
the operation does. -/
def Obligations.DecodeFollowsTheOperationMap : Prop :=
  ∀ v : CycVector,
    (decodeCyc v = .reset ↔ v &&& 0x2000 = 0x2000) ∧
    (decodeCyc v = .err ↔ v &&& 0x2800 = 0x0800) ∧
    (decodeCyc v = .eos ↔ v &&& 0x3800 = 0x1000) ∧
    (decodeCyc v = .byte (v.extractLsb' 0 8) (v.getLsbD 8) ↔ v &&& 0x3E00 = 0x0400) ∧
    (decodeCyc v = .byteLast (v.extractLsb' 0 8) (v.getLsbD 8) ↔ v &&& 0x3E00 = 0x0600) ∧
    (decodeCyc v = .tick ↔ v &&& 0x3D00 = 0x0100) ∧
    (decodeCyc v = .nop ↔ v &&& 0x3D00 = 0x0000) ∧
    (decodeCyc v).format = .cyc ∧
    (∀ d tick, decodeCyc v = .byte d tick → d = v.extractLsb' 0 8 ∧ tick = v.getLsbD 8) ∧
    (∀ d tick, decodeCyc v = .byteLast d tick → d = v.extractLsb' 0 8 ∧ tick = v.getLsbD 8) ∧
    (isByteOp (decodeCyc v) = true → ∀ s : State, exec (decodeCyc v) s = exec (decodeCyc (v &&& 0x3EFF)) s)

/-- Every operation, with every operand at every value, is what its encoding decodes to, as a port word and in bytes; and
a byte operation's encoding keeps every bit of its vector but those R82 fixes. -/
def Obligations.DecodeOfEncodeIsTheOperation : Prop :=
  (∀ i : Instr, i.wellFormed = true →
    decodePort (encode i) = i ∧ decode i.format (encodeBytes i) = .ok i) ∧
  ∀ v : CycVector, isByteOp (decodeCyc v) = true → encode (decodeCyc v) = .cyc v

/-- Words written out from R81, R82, R85 and R97 decode to the operations they stand for. -/
def Obligations.WrittenWordsDecode : Prop :=
  decodeCyc 0b10_0110_0000_0101 = .reset ∧ decodeCyc 0b01_1000_0000_0000 = .err ∧
  decodeCyc 0b01_0110_0000_0100 = .eos ∧ decodeCyc 0b00_0100_1000_0001 = .byte 0x81 false ∧
  decodeCyc 0b00_0111_0000_0010 = .byteLast 0x02 true ∧ decodeCyc 0b00_0001_0000_0000 = .tick ∧
  decodeCyc 0b00_0010_1111_1111 = .nop ∧ decodeRd 0b011 = .rdSync ∧ decodeRd 0b111 = .rdConfig

/-- R97: every trace line's vector decodes to its operation, and the cycle of a READ line shows the register it names and
does a NOP. -/
def Obligations.TraceLinesStandForTheirOperations : Prop :=
  (∀ l : TraceLine, decodeCyc (lineVector l) = lineInstr l) ∧
  ∀ (r : RegName) (other : RdAddr) (s : State),
    runCycles [linePins other (.read r)] s = .next { onlyEventsCleared s with rdData := regWord s r }

/-- R98: the expansions of the pseudo-operations. -/
def Obligations.PseudoOperationsExpand : Prop :=
  (∀ (bs : List Byte) (b : Byte), expand (.chunk (bs ++ [b])) = bs.map .byte ++ [.byteL b]) ∧
  (∀ b0 b1 b2 b3 b4 b5 : Byte, expand (.frame b0 b1 b2 b3 b4 b5) = expand (.chunk [b0, b1, b2, b3, b4, b5])) ∧
  (∀ bs : List Byte, expand (.stream bs) = bs.map .byteL) ∧
  (∀ n : Nat, expand (.wait n) = List.replicate n .tick ∧ expand (.idle n) = List.replicate n .nop)

/-! ## The status decoder -/

/-- R151 to R160: each decoded field is the frame bits the source's table gives, the fan speed clamped, so never 7. -/
def Obligations.ExtractDecodesEveryField : Prop :=
  ∀ f : FrameWord,
    (extract f).getLsbD 18 = (frameByte f 3).getLsbD 6 ∧
    (extract f).extractLsb' 16 2 = (frameByte f 4).extractLsb' 0 2 ∧
    (extract f).getLsbD 19 = (frameByte f 3).getLsbD 5 ∧
    (extract f).getLsbD 20 = (frameByte f 4).getLsbD 6 ∧
    (extract f).getLsbD 21 = (frameByte f 4).getLsbD 5 ∧
    (extract f).getLsbD 22 = (frameByte f 4).getLsbD 3 ∧
    (extract f).extractLsb' 8 4 = (frameByte f 1).extractLsb' 0 4 ∧
    (extract f).extractLsb' 4 4 = (frameByte f 2).extractLsb' 0 4 ∧
    (extract f).extractLsb' 0 4 = (frameByte f 3).extractLsb' 0 4 ∧
    ((frameByte f 2).extractLsb' 4 3 ≠ 7 →
      (extract f).extractLsb' 12 3 = (frameByte f 2).extractLsb' 4 3) ∧
    ((frameByte f 2).extractLsb' 4 3 = 7 → (extract f).extractLsb' 12 3 = 0) ∧
    ((extract f).extractLsb' 12 3).toNat ≤ 6

/-- R162: two frames that differ only in bits no field uses (byte 0, byte 5, byte 1 bits 7:4, byte 2 bit 7, byte 3 bits 7
and 4, byte 4 bits 7, 4 and 2) give the same word, and every bit outside the fields is 0. -/
def Obligations.ExtractIgnoresUnassignedBits : Prop :=
  (∀ f g : FrameWord, f &&& 0x006B6F7F0F00 = g &&& 0x006B6F7F0F00 → extract f = extract g) ∧
  ∀ f : FrameWord, extract f &&& 0xFF808000 = 0

/-- R163: the record a STATUS word holds, none while VALID = 0, and so the record of an emitted frame by the bits R151 to
R160 give. Airflow names follow the source's table (log entry 8). -/
def Obligations.ClimateRecordOfStatus : Prop :=
  (∀ w : Word, climateOf w = none ↔ w.getLsbD 31 = false) ∧
  (∀ (w : Word) (c : ClimateStatus), climateOf w = some c →
    (c.mode = .manual ↔ w.getLsbD 18 = true) ∧
    (c.airflowPosition = .feet ↔ w.extractLsb' 16 2 = 0) ∧ (c.airflowPosition = .face ↔ w.extractLsb' 16 2 = 1) ∧
    (c.airflowPosition = .feetDefrost ↔ w.extractLsb' 16 2 = 2) ∧
    (c.airflowPosition = .faceFeet ↔ w.extractLsb' 16 2 = 3) ∧
    (c.acState = .off ↔ w.getLsbD 19 = true) ∧ (c.frontDefrostState = .off ↔ w.getLsbD 20 = true) ∧
    (c.rearDefrostState = .off ↔ w.getLsbD 21 = true) ∧ (c.airSource = .recirculate ↔ w.getLsbD 22 = true) ∧
    c.temperature = (w.extractLsb' 8 4, w.extractLsb' 4 4, w.extractLsb' 0 4) ∧
    c.fanSpeed = w.extractLsb' 12 3) ∧
  ∀ f : FrameWord, ∃ c, climateOf (statusFor true f) = some c ∧
    (c.mode = .manual ↔ (frameByte f 3).getLsbD 6 = true) ∧
    (c.airflowPosition = .feet ↔ (frameByte f 4).extractLsb' 0 2 = 0) ∧
    (c.airflowPosition = .face ↔ (frameByte f 4).extractLsb' 0 2 = 1) ∧
    (c.airflowPosition = .feetDefrost ↔ (frameByte f 4).extractLsb' 0 2 = 2) ∧
    (c.airflowPosition = .faceFeet ↔ (frameByte f 4).extractLsb' 0 2 = 3) ∧
    (c.acState = .off ↔ (frameByte f 3).getLsbD 5 = true) ∧
    (c.frontDefrostState = .off ↔ (frameByte f 4).getLsbD 6 = true) ∧
    (c.rearDefrostState = .off ↔ (frameByte f 4).getLsbD 5 = true) ∧
    (c.airSource = .recirculate ↔ (frameByte f 4).getLsbD 3 = true) ∧
    c.temperature =
      ((frameByte f 1).extractLsb' 0 4, (frameByte f 2).extractLsb' 0 4, (frameByte f 3).extractLsb' 0 4) ∧
    c.fanSpeed = fanSpeed f ∧ c.fanSpeed.toNat ≤ 6

/-! ## Runs -/

/-- R35: stale buffer bytes are never seen. Two machines that differ in them alone still do, and look the same through
every port and address, after any run of the same cycles. -/
def Obligations.StaleBytesAreNeverSeen : Prop :=
  ∀ (ps : List Pins) (s s' t t' : State), s'.params = s.params → sameButStale s.fsync s'.fsync →
    runCycles ps s = .next t → runCycles ps s' = .next t' →
    sameButStale t.fsync t'.fsync ∧ looksSame t t'

/-- R115 and R120 over a whole chunk: from any state that is not halted, a chunk that brings the count to N = cnt + length
emits the buffered bytes followed by its own when N = 6, discards everything when N > 6, and is kept behind the buffered
bytes when N < 6. -/
def Obligations.ChunkOutcome : Prop :=
  ∀ (bs : List Byte) (a : RdAddr) (s : State), bs ≠ [] → s.fsync.halted = false →
    ∃ t, runCycles ((expand (.chunk bs)).map (linePins a)) s = .next t ∧
      t.fsync.chunkOpen = false ∧ t.fsync.idleCnt = 0 ∧ sameHalt s.fsync t.fsync ∧
      t.fsync.evTmo = false ∧ t.fsync.evHalt = false ∧ t.fsync.timeouts = s.fsync.timeouts ∧
      (s.fsync.cnt.toNat + bs.length = 6 →
        t.fsync.cnt = 0 ∧ t.fsync.evFrame = true ∧ t.fsync.evOvr = false ∧
        t.fsync.frames = s.fsync.frames + 1 ∧ t.fsync.overruns = s.fsync.overruns ∧ t.fsync.valid = true ∧
        t.fsync.status = extract t.fsync.frame ||| 0x80000000 ∧
        ∀ k : Fin 6, some (frameByte t.fsync.frame k) =
          if k.val < s.fsync.cnt.toNat then some s.fsync.buf[k] else bs[k.val - s.fsync.cnt.toNat]?) ∧
      (6 < s.fsync.cnt.toNat + bs.length →
        t.fsync.cnt = 0 ∧ t.fsync.evFrame = false ∧ t.fsync.evOvr = true ∧ sameRecord s.fsync t.fsync ∧
        t.fsync.frames = s.fsync.frames ∧ t.fsync.overruns = s.fsync.overruns + 1) ∧
      (s.fsync.cnt.toNat + bs.length < 6 →
        t.fsync.cnt.toNat = s.fsync.cnt.toNat + bs.length ∧ syncState t.fsync = .accum ∧ noEvent t.fsync ∧
        sameRecord s.fsync t.fsync ∧ sameCounters s.fsync t.fsync ∧
        ∀ k : Fin 6, k.val < s.fsync.cnt.toNat + bs.length → some t.fsync.buf[k] =
          if k.val < s.fsync.cnt.toNat then some s.fsync.buf[k] else bs[k.val - s.fsync.cnt.toNat]?)

/-- 95_test_vectors.md S2 for every input: six bytes from an empty buffer, split into chunks at any points, with fewer than
T ticks (and any NOPs) after each byte but the last, which closes the last chunk, give exactly one frame, the six bytes in
order. -/
def Obligations.AnySplitOfSixBytesIsOneFrame : Prop :=
  ∀ (ds : List Delivery) (s : State), ds.length = 6 → syncState s.fsync = .idle →
    (∀ d ∈ ds, (∀ p ∈ d.gap, isQuiet (opOf p) = true) ∧ tickCount d.gap < s.params.T.toNat) →
    (∀ d, ds[5]? = some d → d.last = true ∧ d.gap = []) →
    emissions (ds.flatMap Delivery.cycles) s = 1 ∧
    ∃ t, runCycles (ds.flatMap Delivery.cycles) s = .next t ∧ t.fsync.evFrame = true ∧ t.fsync.cnt = 0 ∧
      t.fsync.frames = s.fsync.frames + 1 ∧ t.fsync.overruns = s.fsync.overruns ∧
      t.fsync.timeouts = s.fsync.timeouts ∧ t.fsync.status = extract t.fsync.frame ||| 0x80000000 ∧
      ∀ k : Fin 6, (ds.map Delivery.byte)[k.val]? = some (frameByte t.fsync.frame k)

/-- R127, its first two sentences: from ACCUM with the timer just armed, quiet cycles with fewer than T ticks keep the
buffer, and the T-th tick discards it, which leaves IDLE with cnt = 0. That the next byte is then buf[0] is
NewGenerationOnlyByEventOrReset. -/
def Obligations.ResyncAfterTTicks : Prop :=
  ∀ (ps : List Pins) (s : State), syncState s.fsync = .accum → s.fsync.idleCnt = 0 →
    (∀ p ∈ ps, isQuiet (opOf p) = true) →
    (tickCount ps < s.params.T.toNat →
      ∃ t, runCycles ps s = .next t ∧ syncState t.fsync = .accum ∧ t.fsync.buf = s.fsync.buf ∧
        t.fsync.cnt = s.fsync.cnt ∧ t.fsync.idleCnt.toNat = tickCount ps ∧ sameRecord s.fsync t.fsync ∧
        sameCounters s.fsync t.fsync) ∧
    (∀ p, opOf p = .tick → tickCount ps + 1 = s.params.T.toNat →
      ∃ t, runCycles (ps ++ [p]) s = .next t ∧ syncState t.fsync = .idle ∧ t.fsync.cnt = 0 ∧
        t.fsync.evTmo = true ∧ t.fsync.timeouts = s.fsync.timeouts + 1 ∧ sameRecord s.fsync t.fsync ∧
        t.fsync.frames = s.fsync.frames ∧ t.fsync.overruns = s.fsync.overruns)

/-- R128: when every byte closes its chunk, no overrun ever happens. -/
def Obligations.PerByteStreamNeverOverruns : Prop :=
  ∀ (ps : List Pins) (s t : State), ps ≠ [] → stateInv s → s.fsync.chunkOpen = false →
    (∀ p ∈ ps, ∀ d tick, opOf p ≠ .byte d tick) → runCycles ps s = .next t →
    t.fsync.evOvr = false ∧ t.fsync.chunkOpen = false ∧
    ((∀ p ∈ ps, opOf p ≠ .reset) → t.fsync.overruns = s.fsync.overruns)

/-- R243: while a chunk is open, bytes that do not end it, ticks and NOPs keep FSYNC in RECV for ever: no frame, no
discard, no timeout; the timer stays at 0. -/
def Obligations.OpenChunkIsNeverTimedOut : Prop :=
  ∀ (ps : List Pins) (s t : State), ps ≠ [] → stateInv s → syncState s.fsync = .recv →
    (∀ p ∈ ps, isQuiet (opOf p) = true ∨ ∃ d tick, opOf p = .byte d tick) → runCycles ps s = .next t →
    syncState t.fsync = .recv ∧ noEvent t.fsync ∧ t.fsync.idleCnt = 0 ∧ sameRecord s.fsync t.fsync ∧
    sameCounters s.fsync t.fsync

/-- R241: after a step that emits a frame, none of the next five steps emits one, and but for RESET the record stays as
it was. -/
def Obligations.EmissionsAreSixStepsApart : Prop :=
  ∀ (s t u : State) (ps : List Pins), step s = .next t → t.fsync.evFrame = true → ps ≠ [] → ps.length ≤ 5 →
    runCycles ps t = .next u →
    u.fsync.evFrame = false ∧ ((∀ p ∈ ps, opOf p ≠ .reset) → sameRecord t.fsync u.fsync)

/-- As accounting, over any run every emitted frame uses up six bytes of its own, which were buffered before or
accepted in the run (R129); and the frame counter counts the emissions (R42, R121). -/
def Obligations.EveryFrameUsesSixBytes : Prop :=
  ∀ (ps : List Pins) (s t : State), runCycles ps s = .next t →
    6 * emissions ps s + t.fsync.cnt.toNat ≤ s.fsync.cnt.toNat + acceptedBytes ps s ∧
    ((∀ p ∈ ps, opOf p ≠ .reset) → t.fsync.frames = s.fsync.frames + BitVec.ofNat 32 (emissions ps s))

/-- R190: if FRAMES reads the same before and after (and fewer than 2^32 frames were emitted between), every record read in
between belongs to the same frame. The rule does not speak of a RESET between the reads; the premise leaves it out (log
entry 9). -/
def Obligations.EqualFrameCountsMeanOneRecord : Prop :=
  ∀ (qs rs : List Pins) (s u t : State), (∀ p ∈ qs ++ rs, opOf p ≠ .reset) → emissions (qs ++ rs) s < 2 ^ 32 →
    runCycles qs s = .next u → runCycles rs u = .next t → t.fsync.frames = s.fsync.frames →
    sameRecord s.fsync u.fsync ∧ sameRecord s.fsync t.fsync
end

