-- ==== Sys2Proof/Laws/State.lean ====
section
/-! SUPPORT. One lemma per field that a named update of State or Fsync touches or keeps, true by rfl. The fields an update
keeps are said once by a whole-record equation where that is shorter. -/

namespace Sys2Proof.Machine

section Flags
variable (f : Fsync)

@[simp] theorem clearEvents_evFrame : (clearEvents f).evFrame = false := rfl
@[simp] theorem clearEvents_evOvr : (clearEvents f).evOvr = false := rfl
@[simp] theorem clearEvents_evTmo : (clearEvents f).evTmo = false := rfl
@[simp] theorem clearEvents_evHalt : (clearEvents f).evHalt = false := rfl
@[simp] theorem clearEvents_buf : (clearEvents f).buf = f.buf := rfl
@[simp] theorem clearEvents_cnt : (clearEvents f).cnt = f.cnt := rfl
@[simp] theorem clearEvents_chunkOpen : (clearEvents f).chunkOpen = f.chunkOpen := rfl
@[simp] theorem clearEvents_idleCnt : (clearEvents f).idleCnt = f.idleCnt := rfl
@[simp] theorem clearEvents_halted : (clearEvents f).halted = f.halted := rfl
@[simp] theorem clearEvents_haltCause : (clearEvents f).haltCause = f.haltCause := rfl
@[simp] theorem clearEvents_frame : (clearEvents f).frame = f.frame := rfl
@[simp] theorem clearEvents_valid : (clearEvents f).valid = f.valid := rfl
@[simp] theorem clearEvents_status : (clearEvents f).status = f.status := rfl
@[simp] theorem clearEvents_frames : (clearEvents f).frames = f.frames := rfl
@[simp] theorem clearEvents_overruns : (clearEvents f).overruns = f.overruns := rfl
@[simp] theorem clearEvents_timeouts : (clearEvents f).timeouts = f.timeouts := rfl
@[simp] theorem syncState_clearEvents : syncState (clearEvents f) = syncState f := rfl

@[simp] theorem raiseEvent_frame : raiseEvent .frame f = { f with evFrame := true } := rfl
@[simp] theorem raiseEvent_ovr : raiseEvent .ovr f = { f with evOvr := true } := rfl
@[simp] theorem raiseEvent_tmo : raiseEvent .tmo f = { f with evTmo := true } := rfl
@[simp] theorem raiseEvent_halt : raiseEvent .halt f = { f with evHalt := true } := rfl

end Flags

section Append
variable (d : Byte) (f : Fsync)

@[simp] theorem appendByte_idleCnt : (appendByte d f).idleCnt = 0 := rfl
@[simp] theorem appendByte_chunkOpen : (appendByte d f).chunkOpen = f.chunkOpen := rfl
@[simp] theorem appendByte_halted : (appendByte d f).halted = f.halted := rfl
@[simp] theorem appendByte_haltCause : (appendByte d f).haltCause = f.haltCause := rfl
@[simp] theorem appendByte_frame : (appendByte d f).frame = f.frame := rfl
@[simp] theorem appendByte_valid : (appendByte d f).valid = f.valid := rfl
@[simp] theorem appendByte_status : (appendByte d f).status = f.status := rfl
@[simp] theorem appendByte_frames : (appendByte d f).frames = f.frames := rfl
@[simp] theorem appendByte_overruns : (appendByte d f).overruns = f.overruns := rfl
@[simp] theorem appendByte_timeouts : (appendByte d f).timeouts = f.timeouts := rfl
@[simp] theorem appendByte_evFrame : (appendByte d f).evFrame = f.evFrame := rfl
@[simp] theorem appendByte_evOvr : (appendByte d f).evOvr = f.evOvr := rfl
@[simp] theorem appendByte_evTmo : (appendByte d f).evTmo = f.evTmo := rfl
@[simp] theorem appendByte_evHalt : (appendByte d f).evHalt = f.evHalt := rfl

end Append

section Surroundings
variable (g : Fsync → Fsync) (w : Word) (ps : List Pins) (p : Pins) (s : State)

@[simp] theorem clocked_fsync : (clocked g s).fsync = g (clearEvents s.fsync) := rfl
@[simp] theorem clocked_params : (clocked g s).params = s.params := rfl
@[simp] theorem clocked_inputs : (clocked g s).inputs = s.inputs := rfl
@[simp] theorem clocked_draws : (clocked g s).draws = s.draws := rfl
@[simp] theorem clocked_rdData : (clocked g s).rdData = s.rdData := rfl

@[simp] theorem showWord_fsync : (showWord w s).fsync = s.fsync := rfl
@[simp] theorem showWord_params : (showWord w s).params = s.params := rfl
@[simp] theorem showWord_inputs : (showWord w s).inputs = s.inputs := rfl
@[simp] theorem showWord_draws : (showWord w s).draws = s.draws := rfl
@[simp] theorem showWord_rdData : (showWord w s).rdData = w := rfl

@[simp] theorem present_fsync : (present ps s).fsync = s.fsync := rfl
@[simp] theorem present_params : (present ps s).params = s.params := rfl
@[simp] theorem present_inputs : (present ps s).inputs = ps ++ s.inputs := rfl
@[simp] theorem present_draws : (present ps s).draws = s.draws := rfl
@[simp] theorem present_rdData : (present ps s).rdData = s.rdData := rfl

@[simp] theorem nextPins_present_cons : nextPins (present (p :: ps) s) = p := rfl
@[simp] theorem takeCycle_present_cons : takeCycle (present (p :: ps) s) = present ps s := rfl

@[simp] theorem takeCycle_fsync : (takeCycle s).fsync = s.fsync := by
  unfold takeCycle; split <;> rfl
@[simp] theorem takeCycle_params : (takeCycle s).params = s.params := by
  unfold takeCycle; split <;> rfl
@[simp] theorem takeCycle_rdData : (takeCycle s).rdData = s.rdData := by
  unfold takeCycle; split <;> rfl

end Surroundings

end Sys2Proof.Machine
end

