-- ==== Sys2Proof/Laws/Ops.lean ====
section
/-! SUPPORT. For each shared operation one lemma that says once everything it can do; the effect of every CYC operation on
FSYNC as one function, and of a whole cycle on the machine. -/

namespace Sys2Proof.Machine

/-- The counter after Append (40_synchronizer.md R112), as a number. -/
theorem appendByte_cnt (d : Byte) (f : Fsync) :
    (appendByte d f).cnt.toNat = min (f.cnt.toNat + 1) 7 := by
  unfold appendByte
  have := f.cnt.isLt
  by_cases h : f.cnt = 7
  · simp [h]
  · have h' : f.cnt.toNat ≠ 7 := fun e => h (BitVec.eq_of_toNat_eq (by simpa using e))
    rw [if_neg h, BitVec.toNat_add]
    simp
    omega

/-- The buffer after Append: the byte at index cnt, every other byte kept. -/
theorem appendByte_buf (d : Byte) (f : Fsync) (j : Fin 6) :
    (appendByte d f).buf[j] = if j.val = f.cnt.toNat then d else f.buf[j] := by
  unfold appendByte
  by_cases h : f.cnt.toNat < 6
  · simp [h, Vector.getElem_set, eq_comm]
  · have : ¬ j.val = f.cnt.toNat := by have := j.isLt; omega
    simp [h, this]

/-- The frame lanes of the buffer: byte k of the emitted frame is buf[k] (40_synchronizer.md R121). -/
theorem frameByte_bufferFrame (b : Vector Byte 6) (k : Fin 6) : frameByte (bufferFrame b) k.val = b[k] := by
  unfold frameByte bufferFrame
  apply BitVec.eq_of_getLsbD_eq
  intro i hi
  match k with
  | 0 | 1 | 2 | 3 | 4 | 5 =>
    simp only [BitVec.getLsbD_extractLsb', BitVec.getLsbD_append]
    interval_cases i <;> simp

/-! When each synchronizer state is held (10_state.md R41). -/

theorem syncState_halted_iff (f : Fsync) : syncState f = .halted ↔ f.halted = true := by
  unfold syncState; split_ifs <;> simp_all

theorem syncState_recv_iff (f : Fsync) : syncState f = .recv ↔ f.halted = false ∧ f.chunkOpen = true := by
  unfold syncState; split_ifs <;> simp_all

theorem syncState_idle_iff (f : Fsync) :
    syncState f = .idle ↔ f.halted = false ∧ f.chunkOpen = false ∧ f.cnt = 0 := by
  unfold syncState; split_ifs <;> simp_all

theorem syncState_accum_iff (f : Fsync) :
    syncState f = .accum ↔ f.halted = false ∧ f.chunkOpen = false ∧ f.cnt ≠ 0 := by
  unfold syncState; split_ifs <;> simp_all

/-- Everything Evaluate can do (40_synchronizer.md R120). -/
theorem evaluateChunk_cases (f : Fsync) :
    (f.cnt = 6 ∧ evaluateChunk f =
        { f with
          chunkOpen := false, frame := bufferFrame f.buf, valid := true
          status := statusFor true (bufferFrame f.buf), frames := f.frames + 1, cnt := 0, evFrame := true }) ∨
    (f.cnt = 7 ∧ evaluateChunk f =
        { f with chunkOpen := false, overruns := f.overruns + 1, cnt := 0, evOvr := true }) ∨
    (f.cnt ≠ 6 ∧ f.cnt ≠ 7 ∧ evaluateChunk f = { f with chunkOpen := false }) := by
  unfold evaluateChunk
  by_cases h6 : f.cnt = 6
  · exact .inl ⟨h6, if_pos h6⟩
  · by_cases h7 : f.cnt = 7
    · exact .inr (.inl ⟨h7, (if_neg h6).trans (if_pos h7)⟩)
    · exact .inr (.inr ⟨h6, h7, (if_neg h6).trans (if_neg h7)⟩)

/-- Everything Halt can do (40_synchronizer.md R125). -/
theorem haltLoop_cases (c : BitVec 2) (f : Fsync) :
    (f.halted = true ∧ haltLoop c f = f) ∨
    (f.halted = false ∧ haltLoop c f =
        { f with cnt := 0, chunkOpen := false, idleCnt := 0, halted := true, haltCause := c, evHalt := true }) := by
  unfold haltLoop
  cases h : f.halted
  · exact .inr ⟨rfl, by simp⟩
  · exact .inl ⟨rfl, by simp⟩

/-- Everything TickStep can do (40_synchronizer.md R116, R124). -/
theorem tickTimer_cases (T : BitVec 16) (f : Fsync) :
    (syncState f ≠ .accum ∧ tickTimer T f = f) ∨
    (syncState f = .accum ∧ f.idleCnt + 1 = T ∧
      tickTimer T f = { f with timeouts := f.timeouts + 1, cnt := 0, idleCnt := 0, evTmo := true }) ∨
    (syncState f = .accum ∧ f.idleCnt + 1 ≠ T ∧ tickTimer T f = { f with idleCnt := f.idleCnt + 1 }) := by
  unfold tickTimer
  by_cases ha : syncState f = .accum
  · by_cases ht : f.idleCnt + 1 = T
    · exact .inr (.inl ⟨ha, ht, (if_pos ha).trans (if_pos ht)⟩)
    · exact .inr (.inr ⟨ha, ht, (if_pos ha).trans (if_neg ht)⟩)
  · exact .inl ⟨ha, if_neg ha⟩

/-- Everything BYTE can do to FSYNC (40_synchronizer.md R114). -/
theorem acceptByte_cases (d : Byte) (f : Fsync) :
    (f.halted = true ∧ acceptByte d f = f) ∨
    (f.halted = false ∧ acceptByte d f = { appendByte d f with chunkOpen := true }) := by
  unfold acceptByte
  cases h : f.halted
  · exact .inr ⟨rfl, by simp⟩
  · exact .inl ⟨rfl, by simp⟩

/-- Everything BYTE_LAST can do to FSYNC (40_synchronizer.md R115); `evaluateChunk_cases` says the rest. -/
theorem acceptLastByte_cases (d : Byte) (f : Fsync) :
    (f.halted = true ∧ acceptLastByte d f = f) ∨
    (f.halted = false ∧ acceptLastByte d f = evaluateChunk (appendByte d f)) := by
  unfold acceptLastByte
  cases h : f.halted
  · exact .inr ⟨rfl, by simp⟩
  · exact .inl ⟨rfl, by simp⟩

/-! ## A cycle -/

/-- The effect of a clock edge with operation `i` on FSYNC (40_synchronizer.md R110). -/
def edge (T : BitVec 16) (i : Instr) (f : Fsync) : Fsync :=
  match i with
  | .reset => Fsync.reset
  | .err => haltLoop 2 (clearEvents f)
  | .eos => haltLoop 1 (clearEvents f)
  | .byte d _ => acceptByte d (clearEvents f)
  | .byteLast d _ => acceptLastByte d (clearEvents f)
  | .tick => tickTimer T (clearEvents f)
  | _ => clearEvents f

/-- The machine after the cycle `p`. -/
def cycle (p : Pins) (s : State) : State :=
  { s with fsync := edge s.params.T (decodeCyc p.vec) s.fsync, rdData := regRead s p.rdAddr }

/-- Decoding a vector gives one of the seven CYC operations. -/
theorem decodeCyc_cases (v : CycVector) :
    decodeCyc v = .reset ∨ decodeCyc v = .err ∨ decodeCyc v = .eos ∨
    decodeCyc v = .byte (pinRxData v) (pinTick v) ∨ decodeCyc v = .byteLast (pinRxData v) (pinTick v) ∨
    decodeCyc v = .tick ∨ decodeCyc v = .nop := by
  unfold decodeCyc; split_ifs <;> simp

/-- Everything a clock edge can do to FSYNC, as nine cases (40_synchronizer.md R110 to R125; 70_reset_and_hazards.md
R230): reset; nothing but the flags; halt; accept a byte; emit; overrun; arm; time out; count a tick. -/
theorem edge_cases (T : BitVec 16) (v : CycVector) (f g : Fsync) (hg : g = edge T (decodeCyc v) f) :
    (decodeCyc v = .reset ∧ g = Fsync.reset) ∨
    (decodeCyc v ≠ .reset ∧ g = clearEvents f ∧
      (f.halted = true ∨ decodeCyc v = .nop ∨ (decodeCyc v = .tick ∧ syncState f ≠ .accum))) ∨
    (∃ c : BitVec 2, ((decodeCyc v = .eos ∧ c = 1) ∨ (decodeCyc v = .err ∧ c = 2)) ∧ f.halted = false ∧
      g = { clearEvents f with
        cnt := 0, chunkOpen := false, idleCnt := 0, halted := true, haltCause := c, evHalt := true }) ∨
    (decodeCyc v = .byte (pinRxData v) (pinTick v) ∧ f.halted = false ∧
      g = { appendByte (pinRxData v) (clearEvents f) with chunkOpen := true }) ∨
    (decodeCyc v = .byteLast (pinRxData v) (pinTick v) ∧ f.halted = false ∧
      (appendByte (pinRxData v) (clearEvents f)).cnt = 6 ∧
      g = { appendByte (pinRxData v) (clearEvents f) with
        chunkOpen := false, frame := bufferFrame (appendByte (pinRxData v) (clearEvents f)).buf, valid := true
        status := statusFor true (bufferFrame (appendByte (pinRxData v) (clearEvents f)).buf)
        frames := f.frames + 1, cnt := 0, evFrame := true }) ∨
    (decodeCyc v = .byteLast (pinRxData v) (pinTick v) ∧ f.halted = false ∧
      (appendByte (pinRxData v) (clearEvents f)).cnt = 7 ∧
      g = { appendByte (pinRxData v) (clearEvents f) with
        chunkOpen := false, overruns := f.overruns + 1, cnt := 0, evOvr := true }) ∨
    (decodeCyc v = .byteLast (pinRxData v) (pinTick v) ∧ f.halted = false ∧
      (appendByte (pinRxData v) (clearEvents f)).cnt ≠ 6 ∧ (appendByte (pinRxData v) (clearEvents f)).cnt ≠ 7 ∧
      g = { appendByte (pinRxData v) (clearEvents f) with chunkOpen := false }) ∨
    (decodeCyc v = .tick ∧ syncState f = .accum ∧ f.idleCnt + 1 = T ∧
      g = { clearEvents f with timeouts := f.timeouts + 1, cnt := 0, idleCnt := 0, evTmo := true }) ∨
    (decodeCyc v = .tick ∧ syncState f = .accum ∧ f.idleCnt + 1 ≠ T ∧
      g = { clearEvents f with idleCnt := f.idleCnt + 1 }) := by
  have halt : ∀ c : BitVec 2, g = haltLoop c (clearEvents f) → (f.halted = true ∧ g = clearEvents f) ∨
      (f.halted = false ∧ g = { clearEvents f with
        cnt := 0, chunkOpen := false, idleCnt := 0, halted := true, haltCause := c, evHalt := true }) := fun c h => by
    rcases haltLoop_cases c (clearEvents f) with ⟨hh, e⟩ | ⟨hh, e⟩
    · exact .inl ⟨hh, h.trans e⟩
    · exact .inr ⟨hh, h.trans e⟩
  rcases decodeCyc_cases v with h | h | h | h | h | h | h <;> rw [h] at hg ⊢
  · exact .inl ⟨rfl, hg⟩
  · rcases halt 2 hg with ⟨hh, e⟩ | ⟨hh, e⟩
    · exact .inr (.inl ⟨nofun, e, .inl hh⟩)
    · exact .inr (.inr (.inl ⟨2, .inr ⟨rfl, rfl⟩, hh, e⟩))
  · rcases halt 1 hg with ⟨hh, e⟩ | ⟨hh, e⟩
    · exact .inr (.inl ⟨nofun, e, .inl hh⟩)
    · exact .inr (.inr (.inl ⟨1, .inl ⟨rfl, rfl⟩, hh, e⟩))
  · rcases acceptByte_cases (pinRxData v) (clearEvents f) with ⟨hh, e⟩ | ⟨hh, e⟩
    · exact .inr (.inl ⟨nofun, hg.trans e, .inl hh⟩)
    · exact .inr (.inr (.inr (.inl ⟨rfl, hh, hg.trans e⟩)))
  · rcases acceptLastByte_cases (pinRxData v) (clearEvents f) with ⟨hh, e⟩ | ⟨hh, e⟩
    · exact .inr (.inl ⟨nofun, hg.trans e, .inl hh⟩)
    · have hg := hg.trans e
      rcases evaluateChunk_cases (appendByte (pinRxData v) (clearEvents f)) with ⟨h6, e⟩ | ⟨h7, e⟩ | ⟨h6, h7, e⟩
      · exact .inr (.inr (.inr (.inr (.inl ⟨rfl, hh, h6, hg.trans e⟩))))
      · exact .inr (.inr (.inr (.inr (.inr (.inl ⟨rfl, hh, h7, hg.trans e⟩)))))
      · exact .inr (.inr (.inr (.inr (.inr (.inr (.inl ⟨rfl, hh, h6, h7, hg.trans e⟩))))))
  · rcases tickTimer_cases T (clearEvents f) with ⟨ha, e⟩ | ⟨ha, ht, e⟩ | ⟨ha, ht, e⟩
    · exact .inr (.inl ⟨nofun, hg.trans e, .inr (.inr ⟨rfl, ha⟩)⟩)
    · exact .inr (.inr (.inr (.inr (.inr (.inr (.inr (.inl ⟨rfl, ha, ht, hg.trans e⟩)))))))
    · exact .inr (.inr (.inr (.inr (.inr (.inr (.inr (.inr ⟨rfl, ha, ht, hg.trans e⟩)))))))
  · exact .inr (.inl ⟨nofun, hg, .inr (.inl rfl)⟩)

/-- A CYC operation changes FSYNC as `edge` says and nothing else. -/
theorem exec_decodeCyc (v : CycVector) (s : State) :
    exec (decodeCyc v) s = .next { s with fsync := edge s.params.T (decodeCyc v) s.fsync } := by
  rcases decodeCyc_cases v with h | h | h | h | h | h | h <;> rw [h] <;> rfl

/-- An RD access shows its register's word and changes nothing else. -/
theorem exec_readOf (r : RegName) (s : State) : exec (readOf r) s = .next (showWord (regWord s r) s) := by
  cases r <;> rfl

/-- What a word of the read port depends on: FSYNC and the parameters. -/
theorem regRead_congr {s t : State} (hf : t.fsync = s.fsync) (hp : t.params = s.params) (a : RdAddr) :
    regRead t a = regRead s a := by
  unfold regRead regWord; rw [hf, hp]

/-- One step is one cycle on what the environment drives. -/
theorem step_eq_cycle (s : State) : step s = .next (cycle (nextPins s) (takeCycle s)) := by
  unfold step
  rw [decodeRd, exec_readOf]
  simp only [exec_decodeCyc]
  rfl

/-- What a step leaves: FSYNC after the edge, the parameters as they were. -/
theorem step_next {s t : State} (h : step s = .next t) :
    t.fsync = edge s.params.T (decodeCyc (nextPins s).vec) s.fsync ∧ t.params = s.params := by
  rw [step_eq_cycle] at h
  cases h
  exact ⟨by simp [cycle], by simp [cycle]⟩

end Sys2Proof.Machine
end

