-- ==== Sys2Proof/Laws/PerInstr.lean ====
section
/-! SUPPORT. Statements for all operations, one lemma per constructor of Instr. -/

namespace Sys2Proof.Laws.MatchesTable

/-- The encoding of an operation belongs to the row of its own mnemonic, and to no other, in the table of its format
(30_encoding.md R82, R85). -/
def Statement (i : Instr) : Prop :=
  match encode i with
  | .cyc v => i.format = .cyc ∧ (cycTable.filter fun r => v &&& r.mask == r.pattern).map OpcodeRow.mnemonic = [i.mnemonic]
  | .rd a => i.format = .rd ∧ (rdTable.filter fun r => a &&& r.mask == r.pattern).map OpcodeRow.mnemonic = [i.mnemonic]

theorem reset : Statement .reset := ⟨rfl, by decide⟩
theorem err : Statement .err := ⟨rfl, by decide⟩
theorem eos : Statement .eos := ⟨rfl, by decide⟩

/-- The rows a byte operation's encoding belongs to do not depend on the byte: no mask reads bits 7:0. -/
theorem masked_byteVector (last tick : Bool) (d : Byte) (r : OpcodeRow 14) (h : r ∈ cycTable) :
    byteVector last tick d &&& r.mask = byteVector last tick 0 &&& r.mask := by
  have hm : r.mask &&& 0x00FF = 0 := by
    revert r; decide
  apply BitVec.eq_of_getLsbD_eq
  intro i hi
  have hb := congrArg (·.getLsbD i) hm
  simp only [BitVec.getLsbD_and] at hb
  unfold byteVector
  simp only [BitVec.getLsbD_and, BitVec.getLsbD_append]
  interval_cases i <;> simp_all

/-- The rows that match a byte operation's encoding. -/
theorem filter_byteVector (last tick : Bool) (d : Byte) :
    (cycTable.filter fun r => byteVector last tick d &&& r.mask == r.pattern) =
      cycTable.filter fun r => byteVector last tick 0 &&& r.mask == r.pattern :=
  List.filter_congr fun r h => by rw [masked_byteVector last tick d r h]

theorem byte (d : Byte) (tick : Bool) : Statement (.byte d tick) := by
  refine ⟨rfl, ?_⟩
  rw [filter_byteVector]
  show _ = ["BYTE"]
  revert tick; decide

theorem byteLast (d : Byte) (tick : Bool) : Statement (.byteLast d tick) := by
  refine ⟨rfl, ?_⟩
  rw [filter_byteVector]
  show _ = ["BYTE_LAST"]
  revert tick; decide

theorem tick : Statement .tick := ⟨rfl, by decide⟩
theorem nop : Statement .nop := ⟨rfl, by decide⟩
theorem rdStatus : Statement .rdStatus := ⟨rfl, by decide⟩
theorem rdFrameLo : Statement .rdFrameLo := ⟨rfl, by decide⟩
theorem rdFrameHi : Statement .rdFrameHi := ⟨rfl, by decide⟩
theorem rdSync : Statement .rdSync := ⟨rfl, by decide⟩
theorem rdFrames : Statement .rdFrames := ⟨rfl, by decide⟩
theorem rdOverruns : Statement .rdOverruns := ⟨rfl, by decide⟩
theorem rdTimeouts : Statement .rdTimeouts := ⟨rfl, by decide⟩
theorem rdConfig : Statement .rdConfig := ⟨rfl, by decide⟩

end Sys2Proof.Laws.MatchesTable
end

