-- ==== Sys2Proof/Laws/Runs.lean ====
section
/-! SUPPORT. A run of listed cycles is the fold of `cycle`. -/

namespace Sys2Proof.Machine

/-- The cycle taken from the head of the list leaves the rest presented. -/
theorem step_present_cons (p : Pins) (ps : List Pins) (s : State) :
    step (present (p :: ps) s) = .next (present ps (cycle p s)) := by
  rw [step_eq_cycle]; rfl

/-- A run takes one step and runs on. -/
theorem run_succ_of_step {s t : State} (h : step s = .next t) (k : Nat) :
    Host.Core.run core (k + 1) s = Host.Core.run core k t := by
  have h' : core.step s = .next t := h
  simp only [Host.Core.run, h']

/-- Running no cycle changes nothing. -/
theorem runCycles_nil (s : State) : runCycles [] s = .next s := rfl

/-- A run takes its first cycle and runs on. -/
theorem runCycles_cons (p : Pins) (ps : List Pins) (s : State) :
    runCycles (p :: ps) s = runCycles ps (cycle p s) := by
  exact run_succ_of_step (step_present_cons p ps s) ps.length

/-- A run always answers the fold of its cycles. -/
theorem runCycles_eq_foldl (ps : List Pins) (s : State) :
    runCycles ps s = .next (ps.foldl (fun u p => cycle p u) s) := by
  induction ps generalizing s with
  | nil => rfl
  | cons p ps ih => rw [runCycles_cons, ih]; rfl

/-- A run of two lists is the second list's run after the first's. -/
theorem runCycles_append {qs : List Pins} {s u : State} (h : runCycles qs s = .next u) (rs : List Pins) :
    runCycles (qs ++ rs) s = runCycles rs u := by
  rw [runCycles_eq_foldl] at h ⊢
  rw [runCycles_eq_foldl, List.foldl_append]
  cases h; rfl

/-- No cycle of a run touches the parameters. -/
@[simp] theorem cycle_params (p : Pins) (s : State) : (cycle p s).params = s.params := rfl

/-- FSYNC after a cycle. -/
@[simp] theorem cycle_fsync (p : Pins) (s : State) :
    (cycle p s).fsync = edge s.params.T (decodeCyc p.vec) s.fsync := rfl

end Sys2Proof.Machine
end

