-- ==== Sys2Proof/Tests/Slice0.lean ====
section
/-! SUPPORT. Tests. Expected values are those of spec/95_test_vectors.md (the vector is named in each docstring) or are
written out from the encodings of 30_encoding.md. The last section holds one witness per obligation that has hypotheses. -/

namespace Sys2Proof.Tests
open Sys2Proof.Machine

/-! ## Helpers -/

/-- The next state of an outcome. -/
def nextOf (o : Host.Outcome State Fault Refusal) : Option State :=
  match o with
  | .next t => some t
  | _ => none

/-- A machine just reset, but for FSYNC's state. -/
def withFsync (f : Fsync) : State := { State.reset with fsync := f }

/-- `n` bytes 0x11, 0x22, ... buffered, the chunk closed, the timer at `idle`. -/
def accum (n : BitVec 3) (idle : BitVec 16) : State :=
  withFsync { Fsync.reset with buf := #v[0x11, 0x22, 0x33, 0x44, 0x55, 0x66], cnt := n, idleCnt := idle }

/-- `n` bytes buffered in an open chunk. -/
def recv (n : BitVec 3) : State :=
  withFsync { Fsync.reset with buf := #v[0x11, 0x22, 0x33, 0x44, 0x55, 0x66], cnt := n, chunkOpen := true }

/-- Halted with a cause. -/
def haltedWith (c : BitVec 2) : State := withFsync { Fsync.reset with halted := true, haltCause := c }

/-- The frame 04 81 80 80 81 FB was the last one emitted, in the latest step. -/
def emitted : State :=
  withFsync { Fsync.reset with
    frame := 0xFB8180808104, valid := true, status := 0x80010100, frames := 1, evFrame := true }

/-- The word SYNC reads after an operation. -/
def syncAfter (i : Instr) (s : State) : Option Word := (nextOf (exec i s)).map fun t => regRead t 3

/-- A cycle, reading address `a`. -/
def pins (v : CycVector) (a : RdAddr) : Pins := { vec := v, rdAddr := a }

/-! ## Well-formedness: the ill-formed term of each check is refused -/

theorem test_wf_T_zero_refused : ({ T := 0 } : Params).wellFormed = false := by decide
theorem test_wf_T_bounds : ({ T := 1 } : Params).wellFormed = true ∧ ({ T := 65535 } : Params).wellFormed = true := by
  decide
theorem test_wf_empty_chunk_refused : (PseudoOp.chunk []).wellFormed = false := by decide
theorem test_wf_empty_stream_refused : (PseudoOp.stream []).wellFormed = false := by decide
theorem test_wf_chunk : (PseudoOp.chunk [0x04]).wellFormed = true := by decide

/-! ## Decoding: every operation's word, written bit by bit (rst eos err rx_valid rx_last tick, rx_data), as R82 and R85
give it, don't-care bits set -/

theorem test_decode_reset : decodeCyc 0b1_1_1_1_1_1_10101010 = .reset := by decide
theorem test_decode_err : decodeCyc 0b0_1_1_1_0_1_00000001 = .err := by decide
theorem test_decode_eos : decodeCyc 0b0_1_0_1_1_0_00000100 = .eos := by decide
theorem test_decode_byte : decodeCyc 0b0_0_0_1_0_0_10000001 = .byte 0x81 false := by decide
theorem test_decode_byte_tick : decodeCyc 0b0_0_0_1_0_1_11111011 = .byte 0xFB true := by decide
theorem test_decode_byteLast : decodeCyc 0b0_0_0_1_1_0_00000100 = .byteLast 0x04 false := by decide
theorem test_decode_byteLast_tick : decodeCyc 0b0_0_0_1_1_1_00000010 = .byteLast 0x02 true := by decide
theorem test_decode_tick : decodeCyc 0b0_0_0_0_1_1_11111111 = .tick := by decide
theorem test_decode_nop : decodeCyc 0b0_0_0_0_1_0_11111111 = .nop := by decide
theorem test_decode_rd :
    [0b000, 0b001, 0b010, 0b011, 0b100, 0b101, 0b110, 0b111].map decodeRd =
      [.rdStatus, .rdFrameLo, .rdFrameHi, .rdSync, .rdFrames, .rdOverruns, .rdTimeouts, .rdConfig] := by decide

/-- Bytes that are no port word are refused by name. -/
theorem test_decode_bytes_refused :
    decode .cyc [0x00, 0x40] = .error .bitsAboveWidth ∧ decode .rd [0x08] = .error .bitsAboveWidth ∧
    decode .cyc [0x00] = .error .wrongLength ∧ decode .cyc [] = .error .wrongLength ∧
    decode .rd [] = .error .wrongLength ∧ decode .rd [0x00, 0x00] = .error .wrongLength := by
  refine ⟨?_, ?_, ?_, ?_, ?_, ?_⟩ <;> rfl

/-- The least significant byte comes first: 0x0604 is the bytes 04 06. -/
theorem test_decode_bytes :
    decode .cyc [0x04, 0x06] = .ok (.byteLast 0x04 false) ∧ decode .rd [0x03] = .ok .rdSync ∧
    encodeBytes (.byteLast 0x04 false) = [0x04, 0x06] := ⟨rfl, rfl, by decide⟩

/-- Words of opcode_table.json. -/
theorem test_decode_table_words :
    decodeTableWord 16 0x2605 = some .reset ∧ decodeTableWord 16 0x1800 = some .err ∧
    decodeTableWord 16 0x04A5 = some (.byte 0xA5 false) ∧ decodeTableWord 16 0x4000 = none ∧
    decodeTableWord 8 7 = some .rdConfig ∧ decodeTableWord 8 8 = none ∧ decodeTableWord 16 0x10000 = none := by
  decide

/-- No two rows of one table overlap: some bit that both masks keep differs. -/
theorem test_rows_disjoint :
    (cycTable.Pairwise fun r q => (r.pattern ^^^ q.pattern) &&& (r.mask &&& q.mask) ≠ 0) ∧
    (rdTable.Pairwise fun r q => (r.pattern ^^^ q.pattern) &&& (r.mask &&& q.mask) ≠ 0) := by decide

/-- The vectors R97 lists. -/
theorem test_trace_vectors :
    lineVector (.byteL 0x81) = 0x0681 ∧ lineVector (.byteLT 0x02) = 0x0702 ∧ lineVector (.byteT 0xFF) = 0x05FF ∧
    lineVector (.byte 0x04) = 0x0404 := by decide

theorem test_trace_text : lineText (.byteLT 0xFB) = "BYTEL+T 0xFB" ∧ lineText (.read .FRAME_LO) = "READ FRAME_LO" :=
  ⟨rfl, rfl⟩

/-! ## One step of each operation -/

/-- V22: RESET drops everything, the byte in its cycle too. -/
theorem test_reset : (nextOf (exec (decodeCyc 0x2605) (accum 3 0))).map (·.fsync) = some Fsync.reset := by decide
/-- V21. -/
theorem test_reset_leaves_halted : syncAfter .reset (haltedWith 1) = some 0x00000000 := by decide
/-- V17. -/
theorem test_err : syncAfter .err State.reset = some 0x00008204 := by decide
/-- V19: the first cause is kept and there is no new event. -/
theorem test_err_keeps_cause : syncAfter .err (haltedWith 1) = some 0x00000104 := by decide
/-- V16: the partial buffer is dropped. -/
theorem test_eos : syncAfter .eos (accum 4 0) = some 0x00008104 := by decide
/-- V24: a byte in the cycle of EOS is dropped. -/
theorem test_eos_drops_byte : syncAfter (decodeCyc 0x1604) State.reset = some 0x00008104 := by decide
/-- V3. -/
theorem test_byte : syncAfter (.byte 0x04 false) State.reset = some 0x00000012 := by decide
/-- V15: the seventh byte saturates the count and is not stored. -/
theorem test_byte_seventh :
    (nextOf (exec (.byte 0x07 false) (recv 6))).map (fun t => (t.fsync.buf, t.fsync.cnt)) =
      some (#v[0x11, 0x22, 0x33, 0x44, 0x55, 0x66], 7) := by decide
/-- S2, its last byte: buffered 11 22 33 44 55 and then FB; by R161 TEMP = 2 3 4, FAN = 3,
AIRFLOW = 1, MANUAL = 1, FDEF_OFF = 1. -/
theorem test_byteLast_emits :
    (nextOf (exec (.byteLast 0xFB false) (recv 5))).map (fun t => (t.fsync.frame, t.fsync.status, regRead t 3)) =
      some (0xFB5544332211, 0x80153234, 0x00001000) := by decide
/-- V8: a byte beats the tick in its cycle. -/
theorem test_byteLast_beats_tick : syncAfter (.byteLast 0x02 true) (accum 1 9) = some 0x00000021 := by decide
/-- V9. -/
theorem test_tick_expires : syncAfter .tick (accum 1 9) = some 0x00004000 := by decide
/-- V6, its third tick. -/
theorem test_tick_counts : syncAfter .tick (accum 2 2) = some 0x00030021 := by decide
/-- V25. -/
theorem test_nop : (nextOf (exec .nop emitted)).map (fun t => (regRead t 3, regRead t 0)) = some (0, 0x80010100) := by
  decide
/-- V7. -/
theorem test_nop_does_not_count : syncAfter .nop (accum 3 4) = some 0x00040031 := by decide

/-- RV3: every register after the frame of S2. -/
theorem test_reads :
    [Instr.rdStatus, .rdFrameLo, .rdFrameHi, .rdSync, .rdFrames].map
        (fun i => (nextOf (exec i emitted)).map (·.rdData)) =
      [some 0x80010100, some 0x80808104, some 0x0000FB81, some 0x00001000, some 0x00000001] := by decide
/-- The counters of P2's end state and CONFIG (RV2). -/
theorem test_reads_counters :
    [Instr.rdOverruns, .rdTimeouts, .rdConfig].map
        (fun i => (nextOf (exec i (withFsync { Fsync.reset with overruns := 1, timeouts := 2 }))).map (·.rdData)) =
      [some 1, some 2, some 0x0006000A] := by decide
/-- RV4: STATUS read in the cycle of the emitting byte is the one before the edge. -/
theorem test_read_before_edge :
    (nextOf (step (present [pins 0x06FB 0] (recv 5)))).map (fun t => (t.rdData, t.fsync.valid)) = some (0, true) := by
  decide

/-! ## The status decoder -/

/-- D-2, D-3, D-6, D-16, D-17, D-18, D-19 (frame bytes 5 to 0 from the left). -/
theorem test_extract :
    [0xFB8180808104, 0xFFFFFFFFFFFF, 0x000000D00000, 0xFF949080F0FF, 0xCD949735F2AB, 0x00000C0B0A00,
        0x000105250200].map extract =
      [0x00010100, 0x007F0FFF, 0x00005000, 0x00000000, 0x00003257, 0x00000ABC, 0x00012255] := by decide

/-- S5: Auto, Face, everything On, Fresh, temperature 1 0 0, fan 0. -/
theorem test_climate : climateOf 0x80010100 =
    some
      { mode := .auto, airflowPosition := .face, acState := .on, frontDefrostState := .on, rearDefrostState := .on
        airSource := .fresh, temperature := (1, 0, 0), fanSpeed := 0 } := by decide

/-- S5: the display, whatever the case of the letters. -/
theorem test_temperature_text : (climateOf 0x80010100).map temperatureText = some "10.0°C" := by
  have h : ∀ c : ClimateStatus, c.temperature = (1, 0, 0) → temperatureText c = "10.0°C" := fun c hc => by
    unfold temperatureText displayDigit
    rw [hc]
    cases Config.displayCapitals <;> rfl
  rw [test_climate]
  exact congrArg some (h _ rfl)

/-! ## Witnesses: for each obligation with hypotheses, states and operands that meet them, one for each clause -/

theorem test_witness_ResetOperationGivesResetState :
    (0x3FFF : CycVector) &&& 0x2000 = 0x2000 ∧ (0x2000 : CycVector) &&& 0x2000 = 0x2000 ∧
    (haltedWith 2).fsync.halted = true := by decide

theorem test_witness_ResetHeldKeepsResetState :
    [pins 0x2000 0, pins 0x3FFF 7] ≠ [] ∧ (∀ p ∈ [pins 0x2000 0, pins 0x3FFF 7], p.vec.getLsbD 13 = true) ∧
    (haltedWith 3).params.wellFormed = true := by decide

theorem test_witness_NopOnlyClearsEventFlags : (0x02FF : CycVector) &&& 0x3D00 = 0x0000 := by decide

theorem test_witness_ByteStoresCountsAndOpensChunk :
    (0x05FF : CycVector) &&& 0x3E00 = 0x0400 ∧ (haltedWith 1).fsync.halted = true ∧
    (State.reset.fsync.halted = false ∧ State.reset.fsync.cnt = 0) ∧
    ((recv 5).fsync.halted = false ∧ (recv 5).fsync.cnt = 5) ∧
    ((recv 6).fsync.halted = false ∧ (recv 6).fsync.cnt = 6) ∧
    ((recv 7).fsync.halted = false ∧ (recv 7).fsync.cnt = 7) := by decide

theorem test_witness_ByteLastEvaluatesTheChunk :
    (0x07FF : CycVector) &&& 0x3E00 = 0x0600 ∧ (haltedWith 1).fsync.halted = true ∧
    ((accum 5 0).fsync.halted = false ∧ min ((accum 5 0).fsync.cnt.toNat + 1) 7 = 6) ∧
    ((recv 6).fsync.halted = false ∧ min ((recv 6).fsync.cnt.toNat + 1) 7 = 7) ∧
    ((recv 7).fsync.halted = false ∧ min ((recv 7).fsync.cnt.toNat + 1) 7 = 7) ∧
    (State.reset.fsync.halted = false ∧ min (State.reset.fsync.cnt.toNat + 1) 7 ≤ 5) ∧
    ((accum 4 0).fsync.halted = false ∧ min ((accum 4 0).fsync.cnt.toNat + 1) 7 ≤ 5) := by decide

theorem test_witness_TickCountsAndExpiresInAccumOnly :
    (0x03FF : CycVector) &&& 0x3D00 = 0x0100 ∧ syncState (recv 3).fsync ≠ .accum ∧
    syncState State.reset.fsync ≠ .accum ∧ syncState (haltedWith 1).fsync ≠ .accum ∧
    (syncState (accum 1 8).fsync = .accum ∧ (accum 1 8).fsync.idleCnt + 1 ≠ (accum 1 8).params.T) ∧
    (syncState (accum 5 9).fsync = .accum ∧ (accum 5 9).fsync.idleCnt + 1 = (accum 5 9).params.T) := by decide

theorem test_witness_EosHaltsWithCauseOne :
    (0x17FF : CycVector) &&& 0x3800 = 0x1000 ∧ (recv 7).fsync.halted = false ∧ (haltedWith 2).fsync.halted = true := by
  decide

theorem test_witness_ErrHaltsWithCauseTwo :
    (0x1FFF : CycVector) &&& 0x2800 = 0x0800 ∧ (accum 3 1).fsync.halted = false ∧
    (haltedWith 1).fsync.halted = true := by decide

theorem test_witness_HaltedIsLeftOnlyByReset :
    (haltedWith 1).fsync.halted = true ∧ [pins 0x0700 0, pins 0x1800 3] ≠ [] ∧
    (∀ p ∈ [pins 0x0700 0, pins 0x1800 3], opOf p ≠ .reset) ∧ opOf (pins 0x2605 0) = .reset := by decide

/-- Before the first frame; after the frame of S2; and a frame with raw fan speed 7 (S6). -/
theorem test_witness_RdStatusShowsTheRecord :
    (stateInv (accum 5 9) ∧ (accum 5 9).fsync.valid = false) ∧
    (stateInv emitted ∧ emitted.fsync.valid = true ∧ (frameByte emitted.fsync.frame 2).extractLsb' 4 3 ≠ 7) ∧
    stateInv (withFsync { Fsync.reset with frame := 0x700000, valid := true, status := 0x80000000, frames := 1 }) ∧
    (frameByte 0x700000 2).extractLsb' 4 3 = 7 ∧
    (∃ t, step (present [pins 0x0677 0] (recv 6)) = .next t ∧ t.fsync.evOvr = true) ∧
    (∃ t, step (present [pins 0x0100 0] (accum 1 9)) = .next t ∧ t.fsync.evTmo = true) ∧
    ∃ t, step (present [pins 0x1000 0] emitted) = .next t ∧ t.fsync.evHalt = true :=
  ⟨by decide, by decide, by decide, by decide, ⟨_, rfl, by decide⟩, ⟨_, rfl, by decide⟩, _, rfl, by decide⟩

theorem test_witness_RdFrameShowsTheBytesInOrder : stateInv (recv 7) ∧ (recv 7).fsync.valid = false := by decide

theorem test_witness_RdSyncShowsTheSynchronizerWord :
    (stateInv (recv 6) ∧ 6 ≤ (recv 6).fsync.cnt.toNat) ∧ (stateInv (recv 7) ∧ 6 ≤ (recv 7).fsync.cnt.toNat) ∧
    (stateInv (accum 1 9) ∧ (accum 1 9).fsync.idleCnt ≠ 0) ∧ stateInv (haltedWith 2) :=
  ⟨by decide, by decide, by decide, by decide⟩

theorem test_witness_RdConfigShowsTheParameters :
    (∃ t, exec .reset emitted = .next t) ∧ ∃ t, step emitted = .next t := ⟨⟨_, rfl⟩, _, step_eq_cycle _⟩

theorem test_witness_ReadsHaveNoSideEffect :
    (∃ u, exec (decodeRd 7) emitted = .next u) ∧
    (∃ t, runCycles [{ vec := 0x0605, rdAddr := 0 }] emitted = .next t) ∧
    ∃ t, runCycles [{ vec := 0x0605, rdAddr := 7 }] emitted = .next t :=
  ⟨⟨_, rfl⟩, ⟨_, rfl⟩, ⟨_, rfl⟩⟩

theorem test_witness_ReadSeesTheStateBeforeTheEdge :
    (∃ t, step emitted = .next t) ∧
    ∃ t u, (pins 0x06FB 0).rdAddr = 0 ∧ (pins 0x0000 0).rdAddr = 0 ∧ runCycles [pins 0x06FB 0] (accum 5 3) = .next t ∧
      runCycles [pins 0x0000 0] t = .next u :=
  ⟨⟨_, step_eq_cycle _⟩, _, _, rfl, rfl, rfl, rfl⟩

theorem test_witness_ReservedBitsReadZero :
    stateInv State.reset ∧ stateInv (recv 7) ∧ stateInv (accum 5 9) ∧ stateInv emitted ∧ stateInv (haltedWith 2) :=
  ⟨by decide, by decide, by decide, by decide, by decide⟩

theorem test_witness_OutputPortsAreViewsOfState :
    (present [pins 0x0100 3] emitted).fsync = emitted.fsync ∧ (present [pins 0x0100 3] emitted).params = emitted.params ∧
    (nextPins (present [pins 0x0000 3] emitted)).rdAddr = (nextPins (present [pins 0x0100 3] emitted)).rdAddr :=
  ⟨rfl, rfl, rfl⟩

theorem test_witness_StepRunsTheDecodedOperations :
    (present [pins 0x3FFF 7, pins 0x0000 0] emitted).inputs = pins 0x3FFF 7 :: [pins 0x0000 0] := rfl

theorem test_witness_PlacedWordIsRunByTheNextStep :
    decodeTableWord 16 0x3FFF = some .reset ∧ decodeTableWord 16 0 = some .nop ∧
    decodeTableWord 8 0 = some .rdStatus ∧ decodeTableWord 8 7 = some .rdConfig := by decide

theorem test_witness_OnlyTheVectorChangesFsync :
    (present [pins 0x0611 5] emitted).params = (present [pins 0x0611 2] emitted).params ∧
    (present [pins 0x0611 5] emitted).fsync = (present [pins 0x0611 2] emitted).fsync ∧
    (nextPins (present [pins 0x0611 5] emitted)).vec = (nextPins (present [pins 0x0611 2] emitted)).vec ∧
    (∃ t, step (present [pins 0x0611 2] emitted) = .next t) ∧ ∃ t, step (present [pins 0x0611 5] emitted) = .next t :=
  ⟨rfl, rfl, rfl, ⟨_, rfl⟩, ⟨_, rfl⟩⟩

theorem test_witness_ResetStateMeetsInvariants :
    ({ State.reset with params := { T := 1 } } : State).params.wellFormed = true ∧
    ({ State.reset with params := { T := 65535 } } : State).params.wellFormed = true ∧
    ({ State.reset with params := { T := 65535 } } : State).fsync = Fsync.reset := by decide

/-- Not only at reset: at the edge of expiry and of overrun too. -/
theorem test_witness_EveryStepKeepsInvariants :
    (stateInv (accum 5 9) ∧ ∃ t, step (accum 5 9) = .next t) ∧ stateInv (recv 7) ∧ stateInv (haltedWith 1) :=
  ⟨⟨by decide, _, step_eq_cycle _⟩, by decide, by decide⟩

theorem test_witness_ReachableStatesMeetInvariants :
    State.reset.params.wellFormed = true ∧ State.reset.fsync = Fsync.reset ∧
    ∃ t, Host.Core.run core 2 (present [pins 0x0405 0, pins 0x0100 0] State.reset) = .next t :=
  ⟨rfl, rfl, _, rfl⟩

theorem test_witness_CountersCountTheirEvents :
    (∃ t, step (present [pins 0x2000 0] emitted) = .next t) ∧
    decodeCyc (nextPins (present [pins 0x2000 0] emitted)).vec = .reset ∧
    decodeCyc (nextPins (present [pins 0x0100 0] (accum 1 9))).vec ≠ .reset ∧
    ∃ t, step (present [pins 0x0100 0] (accum 1 9)) = .next t ∧ t.fsync.evTmo = true :=
  ⟨⟨_, rfl⟩, by decide, by decide, _, rfl, by decide⟩

theorem test_witness_RecordChangesOnlyAtEmission :
    (∃ t, step (present [pins 0x0000 0] emitted) = .next t ∧ t.fsync.evFrame = false) ∧
    decodeCyc (nextPins (present [pins 0x0000 0] emitted)).vec ≠ .reset ∧
    (∃ t, step (present [pins 0x06FB 0] (recv 5)) = .next t ∧ t.fsync.evFrame = true) ∧
    ∃ t, step (present [pins 0x0611 0] (recv 3)) = .next t ∧ stateInv t ∧ t.fsync.valid = false :=
  ⟨⟨_, rfl, by decide⟩, by decide, ⟨_, rfl, by decide⟩, _, rfl, by decide, by decide⟩

theorem test_witness_HaltFieldsChangeOnlyByEosErrReset :
    (∃ t, step (present [pins 0x1000 0] (haltedWith 2)) = .next t) ∧
    decodeCyc (nextPins (present [pins 0x1000 0] (haltedWith 2))).vec = .eos ∧ stateInv (haltedWith 2) ∧
    stateInv emitted :=
  ⟨⟨_, rfl⟩, by decide, by decide, by decide⟩

/-- A byte that emits, one that overruns from RECV, one that arms, one dropped in HALTED; a tick that counts and one that
expires. -/
theorem test_witness_TransitionTable :
    (stateInv (accum 5 0) ∧ (accum 5 0).fsync.cnt.toNat + 1 = 6) ∧
    (stateInv (recv 6) ∧ 7 ≤ (recv 6).fsync.cnt.toNat + 1) ∧ stateInv (accum 4 9) ∧ stateInv (haltedWith 1) ∧
    (stateInv (accum 1 8) ∧ (accum 1 8).fsync.idleCnt.toNat + 1 ≠ (accum 1 8).params.T.toNat) ∧
    (stateInv (accum 1 9) ∧ (accum 1 9).fsync.idleCnt.toNat + 1 = (accum 1 9).params.T.toNat) ∧
    (∃ t, step (present [pins 0x0677 0] (recv 6)) = .next t) ∧
    ∃ t, step (present [pins 0x0100 0] (accum 1 9)) = .next t :=
  ⟨by decide, by decide, by decide, by decide, by decide, by decide, ⟨_, rfl⟩, _, rfl⟩

theorem test_witness_ByteBeatsTick :
    (∃ t, step (present [pins 0x0766 0] (accum 1 9)) = .next t) ∧
    isByteOp (decodeCyc (nextPins (present [pins 0x0766 0] (accum 1 9))).vec) = true ∧
    (accum 1 9).fsync.halted = false :=
  ⟨⟨_, rfl⟩, by decide, by decide⟩

theorem test_witness_AtMostOneEventPerStep :
    (∃ t, step (present [pins 0x0766 0] (accum 5 9)) = .next t ∧ t.fsync.evFrame = true) ∧
    (∃ t, step (present [pins 0x0666 0] (recv 7)) = .next t ∧ t.fsync.evOvr = true) ∧
    (∃ t, step (present [pins 0x0100 0] (accum 5 9)) = .next t ∧ t.fsync.evTmo = true) ∧
    ∃ t, step (present [pins 0x0800 0] (accum 5 9)) = .next t ∧ t.fsync.evHalt = true :=
  ⟨⟨_, rfl, by decide⟩, ⟨_, rfl, by decide⟩, ⟨_, rfl, by decide⟩, _, rfl, by decide⟩

theorem test_witness_NewGenerationOnlyByEventOrReset :
    (∃ t, step (present [pins 0x0100 0] (accum 5 9)) = .next t ∧ (accum 5 9).fsync.cnt ≠ 0 ∧ t.fsync.cnt = 0) ∧
    (State.reset.fsync.cnt = 0 ∧ State.reset.fsync.halted = false ∧
      ∃ t, exec (.byte 0x05 false) State.reset = .next t) ∧
    ∃ t, exec (.byteLast 0x05 true) State.reset = .next t :=
  ⟨⟨_, rfl, by decide, by decide⟩, ⟨rfl, rfl, _, rfl⟩, _, rfl⟩

/-- The all-zero and the all-one match of a byte row. -/
theorem test_witness_DecodeFollowsTheOperationMap :
    decodeCyc 0x0400 = .byte 0x00 false ∧ isByteOp (decodeCyc 0x0400) = true ∧
    decodeCyc 0x07FF = .byteLast 0xFF true ∧ isByteOp (decodeCyc 0x07FF) = true := by decide

theorem test_witness_DecodeOfEncodeIsTheOperation :
    (Instr.byteLast 0xFF true).wellFormed = true ∧ isByteOp (decodeCyc 0x07FF) = true ∧
    isByteOp (decodeCyc 0x0400) = true := by decide

theorem test_witness_ExtractDecodesEveryField :
    (frameByte 0x000000700000 2).extractLsb' 4 3 = 7 ∧ (frameByte 0x000000600000 2).extractLsb' 4 3 ≠ 7 := by decide

/-- D-16 against the zero frame. -/
theorem test_witness_ExtractIgnoresUnassignedBits :
    (0xFF949080F0FF : FrameWord) &&& 0x006B6F7F0F00 = 0 &&& 0x006B6F7F0F00 := by decide

theorem test_witness_ClimateRecordOfStatus : ∃ c, climateOf 0x80010100 = some c := ⟨_, rfl⟩

theorem test_witness_StaleBytesAreNeverSeen :
    sameButStale (accum 2 3).fsync { (accum 2 3).fsync with buf := #v[0x11, 0x22, 0xAA, 0xBB, 0xCC, 0xDD] } ∧
    (accum 2 3).fsync.buf ≠ #v[0x11, 0x22, 0xAA, 0xBB, 0xCC, 0xDD] ∧
    (∃ t, runCycles [pins 0x0605 0] (accum 2 3) = .next t) ∧
    ∃ t, runCycles [pins 0x0605 0]
      (withFsync { (accum 2 3).fsync with buf := #v[0x11, 0x22, 0xAA, 0xBB, 0xCC, 0xDD] }) = .next t :=
  ⟨by decide, by decide, ⟨_, rfl⟩, _, rfl⟩

/-- S2's second chunk, S3b's and S1's: 2 + 4 = 6, 3 + 4 > 6, 0 + 5 < 6; and 1 + 4 < 6, with a byte
of the buffer and the last byte of the chunk. -/
theorem test_witness_ChunkOutcome :
    ((accum 2 0).fsync.halted = false ∧ (accum 2 0).fsync.cnt.toNat + [0x80, 0x80, 0x81, 0xFB].length = 6) ∧
    ((accum 3 0).fsync.halted = false ∧ 6 < (accum 3 0).fsync.cnt.toNat + [4, 5, 6, 7].length) ∧
    (State.reset.fsync.halted = false ∧ State.reset.fsync.cnt.toNat + [1, 2, 3, 4, 5].length < 6) ∧
    ((accum 1 0).fsync.halted = false ∧ (accum 1 0).fsync.cnt.toNat + [2, 3, 4, 5].length < 6 ∧
      (4 : Fin 6).val < (accum 1 0).fsync.cnt.toNat + [2, 3, 4, 5].length ∧
      (0 : Fin 6).val < (accum 1 0).fsync.cnt.toNat) := by decide

/-- S2's split 2 + 4 with nine ticks between the chunks, its largest gap for T = 10. -/
def splitTwoFour : List Delivery :=
  [⟨0x04, false, 0, []⟩, ⟨0x81, true, 3, List.replicate 9 (pins 0x0100 0)⟩, ⟨0x80, false, 0, [pins 0x0000 0]⟩,
    ⟨0x80, false, 0, []⟩, ⟨0x81, false, 0, []⟩, ⟨0xFB, true, 0, []⟩]

theorem test_witness_AnySplitOfSixBytesIsOneFrame :
    splitTwoFour.length = 6 ∧ syncState State.reset.fsync = .idle ∧
    (∀ d ∈ splitTwoFour, (∀ p ∈ d.gap, isQuiet (opOf p) = true) ∧ tickCount d.gap < State.reset.params.T.toNat) ∧
    (∀ d, splitTwoFour[5]? = some d → d.last = true ∧ d.gap = []) :=
  ⟨rfl, rfl, by decide, fun d h => by cases h; exact ⟨rfl, rfl⟩⟩

theorem test_witness_ResyncAfterTTicks :
    (syncState (accum 1 0).fsync = .accum ∧ (accum 1 0).fsync.idleCnt = 0) ∧
    (∀ p ∈ List.replicate 9 (pins 0x0100 0), isQuiet (opOf p) = true) ∧
    tickCount (List.replicate 9 (pins 0x0100 0)) < (accum 1 0).params.T.toNat ∧ opOf (pins 0x0100 0) = .tick ∧
    tickCount (List.replicate 9 (pins 0x0100 0)) + 1 = (accum 1 0).params.T.toNat := by decide

theorem test_witness_PerByteStreamNeverOverruns :
    [pins 0x0611 0, pins 0x0100 0, pins 0x07FF 0] ≠ [] ∧ stateInv (accum 5 9) ∧ (accum 5 9).fsync.chunkOpen = false ∧
    (∀ p ∈ [pins 0x0611 0, pins 0x0100 0, pins 0x07FF 0], ∀ d tick, opOf p ≠ .byte d tick) ∧
    (∀ p ∈ [pins 0x0611 0, pins 0x0100 0, pins 0x07FF 0], opOf p ≠ .reset) ∧
    ∃ t, runCycles [pins 0x0611 0, pins 0x0100 0, pins 0x07FF 0] (accum 5 9) = .next t := by
  refine ⟨by decide, by decide, by decide, fun p hp d tick => ?_, by decide, _, rfl⟩
  simp only [List.mem_cons, List.not_mem_nil, or_false] at hp
  rcases hp with rfl | rfl | rfl <;> exact nofun

theorem test_witness_OpenChunkIsNeverTimedOut :
    stateInv (recv 1) ∧ syncState (recv 1).fsync = .recv ∧ isQuiet (opOf (pins 0x0100 0)) = true ∧
    opOf (pins 0x0522 0) = .byte 0x22 true ∧
    ∃ t, runCycles [pins 0x0100 0, pins 0x0522 0, pins 0x0000 0] (recv 1) = .next t :=
  ⟨by decide, by decide, by decide, by decide, _, rfl⟩

/-- An emission and five more bytes of a per-byte stream. -/
theorem test_witness_EmissionsAreSixStepsApart :
    ∃ t, step (present [pins 0x06FB 0] (recv 5)) = .next t ∧ t.fsync.evFrame = true ∧
      (List.replicate 5 (pins 0x0611 0)).length ≤ 5 ∧ (∀ p ∈ List.replicate 5 (pins 0x0611 0), opOf p ≠ .reset) ∧
      ∃ u, runCycles (List.replicate 5 (pins 0x0611 0)) t = .next u :=
  ⟨_, rfl, by decide, by decide, by decide, _, runCycles_eq_foldl _ _⟩

theorem test_witness_EveryFrameUsesSixBytes :
    (∃ t, runCycles [pins 0x06FB 0, pins 0x0611 0] (recv 5) = .next t) ∧
    (∀ p ∈ [pins 0x06FB 0, pins 0x0611 0], opOf p ≠ .reset) ∧
    emissions [pins 0x06FB 0, pins 0x0611 0] (recv 5) = 1 :=
  ⟨⟨_, rfl⟩, by decide, by decide⟩

theorem test_witness_EqualFrameCountsMeanOneRecord :
    (∀ p ∈ [pins 0x0611 0] ++ [pins 0x0000 1], opOf p ≠ .reset) ∧
    emissions ([pins 0x0611 0] ++ [pins 0x0000 1]) emitted < 2 ^ 32 ∧
    ∃ u t, runCycles [pins 0x0611 0] emitted = .next u ∧ runCycles [pins 0x0000 1] u = .next t ∧
      t.fsync.frames = emitted.fsync.frames :=
  ⟨by decide, by decide, _, _, rfl, rfl, by decide⟩

end Sys2Proof.Tests
end

section
/-! SUPPORT. The invariants of 10_state.md R47: they hold at ResetState, every shared operation's outcome keeps them, and so
does every step and every run. -/

namespace Sys2Proof.Machine

/-- A legal T is positive (00_scope.md R9). -/
theorem T_pos_of_wellFormed {p : Params} (hp : p.wellFormed = true) : 0 < p.T.toNat := by
  have hT : p.T ≠ 0 := by simpa [Params.wellFormed] using hp
  exact Nat.pos_of_ne_zero fun h => hT (BitVec.eq_of_toNat_eq h)

section Outcomes
variable {T : BitVec 16} {f : Fsync}

theorem fsyncInv_reset (hT : 0 < T.toNat) : fsyncInv T Fsync.reset :=
  ⟨nofun, fun _ => rfl, nofun, fun _ _ => by decide, ⟨hT, fun h => absurd rfl h⟩, by decide, by decide,
    fun _ => ⟨rfl, rfl⟩⟩

theorem fsyncInv_clearEvents (hf : fsyncInv T f) : fsyncInv T (clearEvents f) := by
  obtain ⟨hHalt, hCause, hOpen, hClosed, hIdle, _, hStatus, hValid⟩ := hf
  exact ⟨hHalt, hCause, hOpen, hClosed, hIdle, by simp, hStatus, hValid⟩

/-- Halt (40_synchronizer.md R125) with a cause of 10_state.md R38. -/
theorem fsyncInv_halted {c : BitVec 2} (hT : 0 < T.toNat) (hc : c = 1 ∨ c = 2) (hf : fsyncInv T f) :
    fsyncInv T { clearEvents f with
      cnt := 0, chunkOpen := false, idleCnt := 0, halted := true, haltCause := c, evHalt := true } := by
  obtain ⟨_, _, _, _, _, _, hStatus, hValid⟩ := hf
  exact ⟨fun _ => ⟨rfl, rfl, rfl, hc⟩, nofun, nofun, nofun, ⟨hT, fun h => absurd rfl h⟩, by simp, hStatus, hValid⟩

/-- Append with the chunk held open (40_synchronizer.md R114). -/
theorem fsyncInv_appended_open (d : Byte) (hT : 0 < T.toNat) (hh : f.halted = false) (hf : fsyncInv T f) :
    fsyncInv T { appendByte d (clearEvents f) with chunkOpen := true } := by
  obtain ⟨_, hCause, _, _, _, _, hStatus, hValid⟩ := hf
  have hcnt : 1 ≤ (appendByte d (clearEvents f)).cnt.toNat := by rw [appendByte_cnt]; omega
  exact ⟨fun h => absurd (hh.symm.trans h) nofun, hCause, fun _ => hcnt, nofun, ⟨hT, fun h => absurd rfl h⟩, by simp,
    hStatus, hValid⟩

/-- Append with the chunk closed below six bytes (40_synchronizer.md R115, R123). -/
theorem fsyncInv_appended_closed (d : Byte) (hT : 0 < T.toNat) (hh : f.halted = false) (hf : fsyncInv T f)
    (h6 : (appendByte d (clearEvents f)).cnt ≠ 6) (h7 : (appendByte d (clearEvents f)).cnt ≠ 7) :
    fsyncInv T { appendByte d (clearEvents f) with chunkOpen := false } := by
  obtain ⟨_, hCause, _, _, _, _, hStatus, hValid⟩ := hf
  have hcnt : (appendByte d (clearEvents f)).cnt.toNat ≤ 5 := by bv_omega
  exact ⟨fun h => absurd (hh.symm.trans h) nofun, hCause, nofun, fun _ _ => hcnt, ⟨hT, fun h => absurd rfl h⟩, by simp,
    hStatus, hValid⟩

/-- Emit (40_synchronizer.md R121), whatever stands in the buffer and the frame counter. -/
theorem fsyncInv_emitted (d : Byte) (b : Vector Byte 6) (n : Word) (hT : 0 < T.toNat) (hh : f.halted = false)
    (hf : fsyncInv T f) :
    fsyncInv T { appendByte d (clearEvents f) with
      chunkOpen := false, frame := bufferFrame b, valid := true, status := statusFor true (bufferFrame b)
      frames := n, cnt := 0, evFrame := true } := by
  obtain ⟨_, hCause, _⟩ := hf
  exact ⟨fun h => absurd (hh.symm.trans h) nofun, hCause, nofun, fun _ _ => by simp, ⟨hT, fun h => absurd rfl h⟩,
    by simp, rfl, nofun⟩

/-- Overrun (40_synchronizer.md R122), whatever the overrun counter. -/
theorem fsyncInv_overrun (d : Byte) (n : Word) (hT : 0 < T.toNat) (hh : f.halted = false) (hf : fsyncInv T f) :
    fsyncInv T { appendByte d (clearEvents f) with chunkOpen := false, overruns := n, cnt := 0, evOvr := true } := by
  obtain ⟨_, hCause, _, _, _, _, hStatus, hValid⟩ := hf
  exact ⟨fun h => absurd (hh.symm.trans h) nofun, hCause, nofun, fun _ _ => by simp, ⟨hT, fun h => absurd rfl h⟩,
    by simp, hStatus, hValid⟩

/-- Timeout (40_synchronizer.md R124), which happens in ACCUM only, whatever the timeout counter. -/
theorem fsyncInv_timedOut (n : Word) (hT : 0 < T.toNat) (ha : syncState f = .accum) (hf : fsyncInv T f) :
    fsyncInv T { clearEvents f with timeouts := n, cnt := 0, idleCnt := 0, evTmo := true } := by
  obtain ⟨_, hCause, _, _, _, _, hStatus, hValid⟩ := hf
  obtain ⟨hh, ho, _⟩ := (syncState_accum_iff f).mp ha
  exact ⟨fun h => absurd (hh.symm.trans h) nofun, hCause, fun h => absurd (ho.symm.trans h) nofun, fun _ _ => by simp,
    ⟨hT, fun h => absurd rfl h⟩, by simp, hStatus, hValid⟩

/-- A tick that does not expire (40_synchronizer.md R116): below T and not T - 1, so still below T after it. -/
theorem fsyncInv_ticked (ha : syncState f = .accum) (ht : f.idleCnt + 1 ≠ T) (hf : fsyncInv T f) :
    fsyncInv T { clearEvents f with idleCnt := f.idleCnt + 1 } := by
  obtain ⟨_, hCause, hOpen, hClosed, ⟨hIdle, _⟩, _, hStatus, hValid⟩ := hf
  obtain ⟨hh, _⟩ := (syncState_accum_iff f).mp ha
  have hlt : (f.idleCnt + 1).toNat < T.toNat := by bv_omega
  exact ⟨fun h => absurd (hh.symm.trans h) nofun, hCause, hOpen, hClosed, ⟨hlt, fun _ => ha⟩, by simp, hStatus, hValid⟩

/-- A clock edge keeps the eight invariants (10_state.md R47), case by case of what it can do. -/
theorem fsyncInv_edge (v : CycVector) (hT : 0 < T.toNat) (hf : fsyncInv T f) :
    fsyncInv T (edge T (decodeCyc v) f) := by
  rcases edge_cases T v f _ rfl with
    ⟨_, e⟩ | ⟨_, e, _⟩ | ⟨c, hc, _, e⟩ | ⟨_, hh, e⟩ | ⟨_, hh, _, e⟩ | ⟨_, hh, _, e⟩ | ⟨_, hh, h6, h7, e⟩ |
    ⟨_, ha, _, e⟩ | ⟨_, ha, ht, e⟩ <;> rw [e]
  · exact fsyncInv_reset hT
  · exact fsyncInv_clearEvents hf
  · exact fsyncInv_halted hT (hc.imp And.right And.right) hf
  · exact fsyncInv_appended_open _ hT hh hf
  · exact fsyncInv_emitted _ _ _ hT hh hf
  · exact fsyncInv_overrun _ _ hT hh hf
  · exact fsyncInv_appended_closed _ hT hh hf h6 h7
  · exact fsyncInv_timedOut _ hT ha hf
  · exact fsyncInv_ticked ha ht hf

end Outcomes

/-- Every step keeps a legal T and the invariants. -/
theorem stateInv_of_step {s t : State} (hs : stateInv s) (h : step s = .next t) : stateInv t := by
  obtain ⟨hT, hf⟩ := hs
  obtain ⟨hfsync, hparams⟩ := step_next h
  rw [stateInv, hparams, hfsync]
  exact ⟨hT, fsyncInv_edge _ (T_pos_of_wellFormed hT) hf⟩

theorem stateInv_of_fsync_reset {s : State} (hT : s.params.wellFormed = true) (hf : s.fsync = Fsync.reset) :
    stateInv s := by
  rw [stateInv, hf]
  exact ⟨hT, fsyncInv_reset (T_pos_of_wellFormed hT)⟩

/-- What every step keeps, every run keeps. -/
theorem run_keeps {P : State → Prop} (hP : ∀ s t, P s → step s = .next t → P t) {k : Nat} {s t : State} (hs : P s)
    (h : Host.Core.run core k s = .next t) : P t := by
  induction k generalizing s with
  | zero => cases h; exact hs
  | succ k ih =>
    have hstep := step_eq_cycle s
    rw [run_succ_of_step hstep] at h
    exact ih (hP _ _ hs hstep) h

/-- Where the invariants hold, the next step is safe: it answers, and keeps them. -/
theorem safeStep_of_stateInv {s : State} (hs : stateInv s) : safeStep s :=
  ⟨_, step_eq_cycle s, stateInv_of_step hs (step_eq_cycle s)⟩

/-- Settles O25: the edge keeps the invariants and the step changes no parameter. -/
theorem everyStepKeepsInvariants : Obligations.EveryStepKeepsInvariants :=
  fun _ _ => stateInv_of_step

/-- Settles O24. -/
theorem resetStateMeetsInvariants : Obligations.ResetStateMeetsInvariants :=
  ⟨stateInv_of_fsync_reset (by decide) rfl, fun _ => stateInv_of_fsync_reset⟩

/-- Settles O26, by induction on the number of steps: O24 is the base and O25 the step. -/
theorem reachableStatesMeetInvariants : Obligations.ReachableStatesMeetInvariants := by
  intro k s t hT hf h
  have ht : stateInv t := run_keeps everyStepKeepsInvariants (stateInv_of_fsync_reset hT hf) h
  exact ⟨ht, safeStep_of_stateInv ht⟩

end Sys2Proof.Machine
end

section
/-! SUPPORT. Stale buffer bytes (10_state.md R35): two FSYNC states that differ in nothing else differ in nothing else after
any shared operation, any edge and any run, and no port shows them. -/

namespace Sys2Proof.Machine

/-- FSYNC with other bytes in the buffer registers. -/
def withBuf (b : Vector Byte 6) (f : Fsync) : Fsync := { f with buf := b }

@[simp] theorem withBuf_self (f : Fsync) : withBuf f.buf f = f := rfl

/-- Two states differ in stale bytes alone when the second is the first with another buffer that agrees below cnt. -/
theorem sameButStale_withBuf_iff (b : Vector Byte 6) (f : Fsync) :
    sameButStale f (withBuf b f) ↔ ∀ i : Fin 6, i.val < f.cnt.toNat → b[i] = f.buf[i] :=
  ⟨And.right, fun h => ⟨rfl, h⟩⟩

theorem eq_withBuf_of_sameButStale {f g : Fsync} (h : sameButStale f g) : g = withBuf g.buf f := by
  obtain ⟨h, _⟩ := h
  rw [← h]
  rfl

theorem sameButStale_refl (f : Fsync) : sameButStale f f := ⟨rfl, fun _ _ => rfl⟩

/-- With six bytes counted no byte is stale. -/
theorem eq_of_sameButStale_of_full {f g : Fsync} (h : sameButStale f g) (hfull : 6 ≤ f.cnt.toNat) : g = f := by
  have hbuf : g.buf = f.buf := Vector.ext fun i hi => h.2 ⟨i, hi⟩ (by simp only; omega)
  rw [eq_withBuf_of_sameButStale h, hbuf, withBuf_self]

/-- An operation that does not look at the buffer, and keeps or drops what it holds, adds no difference. -/
theorem sameButStale_of_comm {φ : Fsync → Fsync} (hcomm : ∀ b f, φ (withBuf b f) = withBuf b (φ f))
    (hbuf : ∀ f, (φ f).buf = f.buf) (hcnt : ∀ f, (φ f).cnt.toNat ≤ f.cnt.toNat) {f g : Fsync}
    (h : sameButStale f g) : sameButStale (φ f) (φ g) := by
  rw [eq_withBuf_of_sameButStale h, hcomm, sameButStale_withBuf_iff, hbuf]
  exact fun i hi => h.2 i (lt_of_lt_of_le hi (hcnt f))

theorem sameButStale_clearEvents {f g : Fsync} (h : sameButStale f g) :
    sameButStale (clearEvents f) (clearEvents g) :=
  sameButStale_of_comm (φ := clearEvents) (fun _ _ => rfl) (fun _ => rfl) (fun _ => le_rfl) h

theorem sameButStale_haltLoop (c : BitVec 2) {f g : Fsync} (h : sameButStale f g) :
    sameButStale (haltLoop c f) (haltLoop c g) := by
  refine sameButStale_of_comm (fun b f => ?comm) (fun f => ?buf) (fun f => ?cnt) h
  case comm =>
    have hhalted : (withBuf b f).halted = f.halted := rfl
    unfold haltLoop
    rw [hhalted]
    split_ifs <;> rfl
  case buf => rcases haltLoop_cases c f with ⟨_, e⟩ | ⟨_, e⟩ <;> rw [e]
  case cnt => rcases haltLoop_cases c f with ⟨_, e⟩ | ⟨_, e⟩ <;> simp [e]

theorem sameButStale_tickTimer (T : BitVec 16) {f g : Fsync} (h : sameButStale f g) :
    sameButStale (tickTimer T f) (tickTimer T g) := by
  refine sameButStale_of_comm (fun b f => ?comm) (fun f => ?buf) (fun f => ?cnt) h
  case comm =>
    have hsync : syncState (withBuf b f) = syncState f := rfl
    have hidle : (withBuf b f).idleCnt = f.idleCnt := rfl
    unfold tickTimer
    rw [hsync, hidle]
    split_ifs <;> rfl
  case buf => rcases tickTimer_cases T f with ⟨_, e⟩ | ⟨_, _, e⟩ | ⟨_, _, e⟩ <;> rw [e]
  case cnt => rcases tickTimer_cases T f with ⟨_, e⟩ | ⟨_, _, e⟩ | ⟨_, _, e⟩ <;> simp [e]

/-- Append makes one byte live, and writes it in both. -/
theorem sameButStale_appendByte (d : Byte) {f g : Fsync} (h : sameButStale f g) :
    sameButStale (appendByte d f) (appendByte d g) := by
  have hg := eq_withBuf_of_sameButStale h
  have hcnt : g.cnt = f.cnt := by rw [hg]; rfl
  refine ⟨by rw [hg]; rfl, fun i hi => ?_⟩
  rw [appendByte_cnt] at hi
  rw [appendByte_buf, appendByte_buf, hcnt]
  split_ifs with hlast
  · rfl
  · exact h.2 i (by omega)

/-- Evaluate looks at the buffer only when it holds six live bytes (40_synchronizer.md R120, R121). -/
theorem sameButStale_evaluateChunk {f g : Fsync} (h : sameButStale f g) :
    sameButStale (evaluateChunk f) (evaluateChunk g) := by
  by_cases hfull : 6 ≤ f.cnt.toNat
  · rw [eq_of_sameButStale_of_full h hfull]
    exact sameButStale_refl _
  · have arm : ∀ e : Fsync, e.cnt = f.cnt → evaluateChunk e = { e with chunkOpen := false } := fun e he => by
      rcases evaluateChunk_cases e with ⟨h6, _⟩ | ⟨h7, _⟩ | ⟨_, _, e⟩
      · exact absurd (by rw [← he, h6]; decide) hfull
      · exact absurd (by rw [← he, h7]; decide) hfull
      · exact e
    rw [eq_withBuf_of_sameButStale h, arm f rfl, arm (withBuf g.buf f) rfl]
    exact ⟨rfl, h.2⟩

theorem sameButStale_halted {f g : Fsync} (h : sameButStale f g) : g.halted = f.halted := by
  rw [eq_withBuf_of_sameButStale h]; rfl

theorem sameButStale_acceptByte (d : Byte) {f g : Fsync} (h : sameButStale f g) :
    sameButStale (acceptByte d f) (acceptByte d g) := by
  unfold acceptByte
  rw [sameButStale_halted h]
  split_ifs
  · exact h
  · obtain ⟨hrest, hlive⟩ := sameButStale_appendByte d h
    exact ⟨congrArg (fun e : Fsync => { e with chunkOpen := true }) hrest, hlive⟩

theorem sameButStale_acceptLastByte (d : Byte) {f g : Fsync} (h : sameButStale f g) :
    sameButStale (acceptLastByte d f) (acceptLastByte d g) := by
  unfold acceptLastByte
  rw [sameButStale_halted h]
  split_ifs
  · exact h
  · exact sameButStale_evaluateChunk (sameButStale_appendByte d h)

/-- No clock edge turns a stale byte into any other difference. -/
theorem sameButStale_edge (T : BitVec 16) (i : Instr) {f g : Fsync} (h : sameButStale f g) :
    sameButStale (edge T i f) (edge T i g) := by
  have hc := sameButStale_clearEvents h
  cases i with
  | reset => exact sameButStale_refl _
  | err => exact sameButStale_haltLoop 2 hc
  | eos => exact sameButStale_haltLoop 1 hc
  | byte d _ => exact sameButStale_acceptByte d hc
  | byteLast d _ => exact sameButStale_acceptLastByte d hc
  | tick => exact sameButStale_tickTimer T hc
  | _ => exact hc

/-- No register shows the buffer. -/
theorem regRead_congr_sameButStale {s t : State} (hp : t.params = s.params) (hf : sameButStale s.fsync t.fsync)
    (a : RdAddr) : regRead t a = regRead s a := by
  unfold regRead regWord
  rw [hp, eq_withBuf_of_sameButStale hf]
  rfl

/-- Two states that differ in stale bytes alone look the same. -/
theorem looksSame_of_sameButStale {s t : State} (hp : t.params = s.params) (hf : sameButStale s.fsync t.fsync) :
    looksSame s t := by
  refine ⟨regRead_congr_sameButStale hp hf, ?_⟩
  rw [eq_withBuf_of_sameButStale hf]
  exact ⟨rfl, rfl, rfl, rfl, rfl, rfl⟩

/-- Settles O42, by induction on the cycles: each keeps the relation (`sameButStale_edge`), which no port sees through
(`looksSame_of_sameButStale`). -/
theorem staleBytesAreNeverSeen : Obligations.StaleBytesAreNeverSeen := by
  intro ps s s' t t' hp hf ht ht'
  induction ps generalizing s s' with
  | nil =>
    cases ht
    cases ht'
    exact ⟨hf, looksSame_of_sameButStale hp hf⟩
  | cons p ps ih =>
    rw [runCycles_cons] at ht ht'
    refine ih (cycle p s) (cycle p s') hp ?_ ht ht'
    rw [cycle_fsync, cycle_fsync, hp]
    exact sameButStale_edge _ _ hf

end Sys2Proof.Machine
end

section
/-! SUPPORT. What an edge does to the counters (10_state.md R42), the record (R39, R40) and the halt fields (R38); the reset
values (R48) and the output ports (R44). -/

namespace Sys2Proof.Machine

/-! ## The counters -/

/-- Each counter goes up by 1 exactly with its event, in every edge but RESET's. -/
theorem edge_counters {T : BitVec 16} {v : CycVector} {f g : Fsync} (hg : g = edge T (decodeCyc v) f)
    (hv : decodeCyc v ≠ .reset) :
    g.frames = f.frames + (if g.evFrame then 1 else 0) ∧ g.overruns = f.overruns + (if g.evOvr then 1 else 0) ∧
    g.timeouts = f.timeouts + (if g.evTmo then 1 else 0) := by
  rcases edge_cases T v f g hg with
    ⟨h, _⟩ | ⟨_, e, _⟩ | ⟨_, _, _, e⟩ | ⟨_, _, e⟩ | ⟨_, _, _, e⟩ | ⟨_, _, _, e⟩ | ⟨_, _, _, _, e⟩ | ⟨_, _, _, e⟩ |
    ⟨_, _, _, e⟩
  · exact absurd h hv
  all_goals simp [e]

/-- A timeout happens in ACCUM only, so it drops at least one byte. -/
theorem edge_evTmo {T : BitVec 16} {v : CycVector} {f g : Fsync} (hg : g = edge T (decodeCyc v) f)
    (ht : g.evTmo = true) : syncState f = .accum := by
  rcases edge_cases T v f g hg with
    ⟨_, e⟩ | ⟨_, e, _⟩ | ⟨_, _, _, e⟩ | ⟨_, _, e⟩ | ⟨_, _, _, e⟩ | ⟨_, _, _, e⟩ | ⟨_, _, _, _, e⟩ | ⟨_, ha, _, _⟩ |
    ⟨_, _, _, e⟩
  pick_goal 8 -- the timeout
  · exact ha
  all_goals simp [e, Fsync.reset] at ht

/-- Settles O27. -/
theorem countersCountTheirEvents : Obligations.CountersCountTheirEvents := by
  intro s t h
  obtain ⟨hf, _⟩ := step_next h
  refine ⟨fun hv => ?_, fun hv => ?_⟩
  · rw [hf, hv]
    exact ⟨rfl, rfl, rfl⟩
  · obtain ⟨hframes, hoverruns, htimeouts⟩ := edge_counters hf hv
    exact ⟨hframes, hoverruns, htimeouts, fun ht => ((syncState_accum_iff _).mp (edge_evTmo hf ht)).2.2⟩

/-! ## The record -/

/-- The STATUS word after an emission: VALID set above the 31 bits of Extract (41_status_decoder.md R161). -/
theorem statusFor_true (f : FrameWord) : statusFor true f = extract f ||| 0x80000000 := by
  have hbit : (0x80000000 : Word) = BitVec.twoPow 32 31 := by decide
  apply BitVec.eq_of_getLsbD_eq
  intro i hi
  rw [statusFor, hbit, BitVec.getLsbD_append, BitVec.getLsbD_or, BitVec.getLsbD_twoPow, BitVec.getLsbD_extractLsb']
  by_cases h : i < 31
  · simp [h, show 31 ≠ i by omega]
  · obtain rfl : i = 31 := by omega
    simp

/-- What an edge does to the record: it emits the buffer, or sets no `ev_frame` and keeps the record but for RESET. -/
theorem edge_record_cases {T : BitVec 16} {v : CycVector} {f g : Fsync} (hg : g = edge T (decodeCyc v) f) :
    (g.evFrame = true ∧ g.frame = bufferFrame g.buf ∧ g.valid = true ∧ g.status = statusFor true g.frame) ∨
    (g.evFrame = false ∧ (decodeCyc v = .reset ∨ sameRecord f g)) := by
  rcases edge_cases T v f g hg with
    ⟨h, e⟩ | ⟨_, e, _⟩ | ⟨_, _, _, e⟩ | ⟨_, _, e⟩ | ⟨_, _, _, e⟩ | ⟨_, _, _, e⟩ | ⟨_, _, _, _, e⟩ | ⟨_, _, _, e⟩ |
    ⟨_, _, _, e⟩ <;> subst e
  pick_goal 5 -- the emission
  · exact .inl ⟨rfl, rfl, rfl, rfl⟩
  · exact .inr ⟨rfl, .inl h⟩
  all_goals exact .inr ⟨rfl, .inr ⟨rfl, rfl, rfl⟩⟩

/-- Settles O28. -/
theorem recordChangesOnlyAtEmission : Obligations.RecordChangesOnlyAtEmission := by
  intro s t h
  obtain ⟨hf, _⟩ := step_next h
  refine ⟨fun hv hev => ?_, fun hev => ?_, fun ⟨_, ht⟩ hvalid => ?_⟩
  · rcases edge_record_cases hf with ⟨hev', _⟩ | ⟨_, hv' | hsame⟩
    · exact absurd (hev.symm.trans hev') nofun
    · exact absurd hv' hv
    · exact hsame
  · rcases edge_record_cases hf with ⟨_, hframe, hvalid, hstatus⟩ | ⟨hev', _⟩
    · exact ⟨fun k => by rw [hframe, frameByte_bufferFrame], hvalid, hstatus.trans (statusFor_true _)⟩
    · exact absurd (hev.symm.trans hev') nofun
  · obtain ⟨_, _, _, _, _, _, _, hinitial⟩ := ht
    exact (hinitial hvalid).1

/-! ## The halt fields -/

/-- Halt ends the loop and keeps a first cause. -/
theorem haltLoop_halt (c : BitVec 2) (f : Fsync) :
    (haltLoop c f).halted = true ∧ (haltLoop c f).haltCause = if f.halted then f.haltCause else c := by
  rcases haltLoop_cases c f with ⟨hh, e⟩ | ⟨hh, e⟩ <;> simp [e, hh]

theorem sameHalt_evaluateChunk (f : Fsync) : sameHalt f (evaluateChunk f) := by
  rcases evaluateChunk_cases f with ⟨_, e⟩ | ⟨_, e⟩ | ⟨_, _, e⟩ <;> rw [e] <;> exact ⟨rfl, rfl⟩

theorem sameHalt_acceptByte (d : Byte) (f : Fsync) : sameHalt f (acceptByte d f) := by
  rcases acceptByte_cases d f with ⟨_, e⟩ | ⟨_, e⟩ <;> rw [e] <;> exact ⟨rfl, rfl⟩

theorem sameHalt_acceptLastByte (d : Byte) (f : Fsync) : sameHalt f (acceptLastByte d f) := by
  rcases acceptLastByte_cases d f with ⟨_, e⟩ | ⟨_, e⟩ <;> rw [e]
  · exact ⟨rfl, rfl⟩
  · exact sameHalt_evaluateChunk (appendByte d f)

theorem sameHalt_tickTimer (T : BitVec 16) (f : Fsync) : sameHalt f (tickTimer T f) := by
  rcases tickTimer_cases T f with ⟨_, e⟩ | ⟨_, _, e⟩ | ⟨_, _, e⟩ <;> rw [e] <;> exact ⟨rfl, rfl⟩

/-- Under R47 the cause is one of the three of R38, and 0 exactly while not halted. -/
theorem haltCause_of_fsyncInv {T : BitVec 16} {f : Fsync} (hf : fsyncInv T f) :
    f.haltCause ≠ 3 ∧ (f.haltCause = 0 ↔ f.halted = false) := by
  obtain ⟨hHalt, hCause, _⟩ := hf
  cases hh : f.halted
  · simp [hCause hh]
  · obtain ⟨_, _, _, h1 | h2⟩ := hHalt hh
    · simp [h1]
    · simp [h2]

/-- Settles O29. -/
theorem haltFieldsChangeOnlyByEosErrReset : Obligations.HaltFieldsChangeOnlyByEosErrReset := by
  refine ⟨fun s t h => ?_, fun s ⟨_, hf⟩ => haltCause_of_fsyncInv hf⟩
  obtain ⟨hf, _⟩ := step_next h
  rw [hf]
  rcases decodeCyc_cases (nextPins s).vec with h | h | h | h | h | h | h <;> rw [h]
  · exact ⟨rfl, rfl⟩
  · exact haltLoop_halt 2 (clearEvents s.fsync)
  · exact haltLoop_halt 1 (clearEvents s.fsync)
  · exact sameHalt_acceptByte _ (clearEvents s.fsync)
  · exact sameHalt_acceptLastByte _ (clearEvents s.fsync)
  · exact sameHalt_tickTimer _ (clearEvents s.fsync)
  · exact ⟨rfl, rfl⟩

/-! ## Reset values and output ports -/

/-- Settles O1. -/
theorem resetStateValues : Obligations.ResetStateValues :=
  ⟨rfl, (syncState_idle_iff _).mpr ⟨rfl, rfl, rfl⟩⟩

/-- Settles O19: of the ports only `rd_data` has the read address in it, and what it reads is FSYNC and T. -/
theorem outputPortsAreViewsOfState : Obligations.OutputPortsAreViewsOfState := by
  refine ⟨fun _ => rfl, fun s s' hf hp => ?_⟩
  have hports : outputPorts s' = { outputPorts s with rdData := (outputPorts s').rdData } := by
    simp only [outputPorts, hf]
  refine ⟨hports, fun ha => ?_⟩
  have hrd : (outputPorts s').rdData = (outputPorts s).rdData := by
    simp only [outputPorts, ha, regRead_congr hf hp]
  rw [hports, hrd]

end Sys2Proof.Machine
end

section
/-! SUPPORT. The read space as noninterference: an RD access touches nothing but the word shown (20_memory.md R63, R64), and
no input but the cycle vector has a part in FSYNC's next state (R66). -/

namespace Sys2Proof.Machine

/-! ## RD accesses -/

/-- The access at an address shows `RegRead` of it (42_register_reads.md R180). -/
theorem exec_decodeRd (a : RdAddr) (s : State) : exec (decodeRd a) s = .next (showWord (regRead s a) s) :=
  exec_readOf (regAt a) s

/-- The word on the port is part of no register: showing one changes no later read. -/
@[simp] theorem regRead_showWord (w : Word) (s : State) (a : RdAddr) : regRead (showWord w s) a = regRead s a :=
  regRead_congr (showWord_fsync w s) (showWord_params w s) a

/-- A run of one cycle. -/
theorem runCycles_singleton (p : Pins) (s : State) : runCycles [p] s = .next (cycle p s) :=
  runCycles_cons p [] s

/-- Of a cycle's pins the read address decides the word shown and nothing else. -/
theorem cycle_of_vec_eq {p q : Pins} (hvec : q.vec = p.vec) (s : State) :
    cycle q s = showWord (regRead s q.rdAddr) (cycle p s) := by
  simp only [cycle, showWord, hvec]

/-- Settles O16: the one thing an access and a cycle's read address decide is `rdData`, which `RegRead` does not read. -/
theorem readsHaveNoSideEffect : Obligations.ReadsHaveNoSideEffect := by
  refine ⟨fun s a b u hu => ?_, fun s t t' v a b ht ht' => ?_⟩
  · rw [exec_decodeRd] at hu
    cases hu
    refine ⟨rfl, regRead s a, exec_decodeRd a s, ?_⟩
    rw [exec_decodeRd, regRead_showWord]
    rfl
  · rw [runCycles_singleton] at ht ht'
    cases ht
    cases ht'
    rw [cycle_of_vec_eq (p := ⟨v, a⟩) rfl]
    rfl

/-! ## The cycle vector -/

/-- Settles O22: FSYNC after a step is `edge` of T, the vector and FSYNC before it. -/
theorem onlyTheVectorChangesFsync : Obligations.OnlyTheVectorChangesFsync := by
  intro s s' t t' hparams hfsync hvec h h'
  obtain ⟨ht, htparams⟩ := step_next h
  obtain ⟨ht', _⟩ := step_next h'
  refine ⟨?_, htparams⟩
  rw [ht', hparams, hvec, hfsync, ht]

end Sys2Proof.Machine
end

section
/-! SUPPORT. The encodings of 30_encoding.md: a CYC vector is the tuple of its named bits (R81); the decoder and the rows of
the operation map read the same bits (R82); encoder, byte layout and trace lines lead back through the decoder (R85, R96,
R97). -/

namespace Sys2Proof.Machine

/-! ## A vector is its named bits -/

/-- The seven named parts of R81 cover the 14 bits. -/
theorem cycVector_ext_iff {v w : CycVector} :
    v = w ↔ pinRst v = pinRst w ∧ pinEos v = pinEos w ∧ pinErr v = pinErr w ∧ pinRxValid v = pinRxValid w ∧
      pinRxLast v = pinRxLast w ∧ pinTick v = pinTick w ∧ pinRxData v = pinRxData w := by
  refine ⟨by rintro rfl; simp, fun ⟨hrst, heos, herr, hvalid, hlast, htick, hdata⟩ => ?_⟩
  apply BitVec.eq_of_getLsbD_eq
  intro i hi
  by_cases hlow : i < 8
  · have hbit := congrArg (·.getLsbD i) hdata
    simpa [pinRxData, hlow] using hbit
  · obtain rfl | rfl | rfl | rfl | rfl | rfl : i = 8 ∨ i = 9 ∨ i = 10 ∨ i = 11 ∨ i = 12 ∨ i = 13 := by omega
    exacts [htick, hlast, hvalid, herr, heos, hrst]

section BytePins
variable (last tick : Bool) (d : Byte)

@[simp] theorem pinRst_byteVector : pinRst (byteVector last tick d) = false := by
  simp only [pinRst, byteVector, BitVec.getLsbD_append]
  simp
@[simp] theorem pinEos_byteVector : pinEos (byteVector last tick d) = false := by
  simp only [pinEos, byteVector, BitVec.getLsbD_append]
  simp
@[simp] theorem pinErr_byteVector : pinErr (byteVector last tick d) = false := by
  simp only [pinErr, byteVector, BitVec.getLsbD_append]
  simp
@[simp] theorem pinRxValid_byteVector : pinRxValid (byteVector last tick d) = true := by
  simp only [pinRxValid, byteVector, BitVec.getLsbD_append]
  simp
@[simp] theorem pinRxLast_byteVector : pinRxLast (byteVector last tick d) = last := by
  simp only [pinRxLast, byteVector, BitVec.getLsbD_append]
  simp
@[simp] theorem pinTick_byteVector : pinTick (byteVector last tick d) = tick := by
  simp only [pinTick, byteVector, BitVec.getLsbD_append]
  simp
@[simp] theorem pinRxData_byteVector : pinRxData (byteVector last tick d) = d := by
  unfold pinRxData byteVector
  rw [BitVec.extractLsb'_append_eq_of_add_le (by omega)]
  simp

end BytePins

/-- A byte's vector is its flags with the byte in the low bits. -/
theorem byteVector_eq_or (last tick : Bool) (d : Byte) :
    byteVector last tick d = byteVector last tick 0 ||| d.setWidth 14 := by
  apply BitVec.eq_of_getLsbD_eq
  intro i hi
  simp only [byteVector, BitVec.getLsbD_or, BitVec.getLsbD_append, BitVec.getLsbD_setWidth]
  by_cases hlow : i < 8
  · simp [hlow, hi]
  · simp [hlow, BitVec.getLsbD_of_ge d i (by omega)]

/-- Clearing bit 8 clears `tick` and no other part. -/
theorem pins_clearTick (v : CycVector) :
    pinRst (v &&& 0x3EFF) = pinRst v ∧ pinEos (v &&& 0x3EFF) = pinEos v ∧ pinErr (v &&& 0x3EFF) = pinErr v ∧
    pinRxValid (v &&& 0x3EFF) = pinRxValid v ∧ pinRxLast (v &&& 0x3EFF) = pinRxLast v ∧
    pinTick (v &&& 0x3EFF) = false ∧ pinRxData (v &&& 0x3EFF) = pinRxData v := by
  have hdata : pinRxData (v &&& 0x3EFF) = pinRxData v := by
    unfold pinRxData
    rw [BitVec.extractLsb'_and]
    exact BitVec.and_allOnes
  refine ⟨?_, ?_, ?_, ?_, ?_, ?_, hdata⟩ <;> simp [pinRst, pinEos, pinErr, pinRxValid, pinRxLast, pinTick]

theorem byteVector_clearTick (last tick : Bool) (d : Byte) :
    byteVector last tick d &&& 0x3EFF = byteVector last false d := by
  rw [cycVector_ext_iff]
  simp only [pins_clearTick]
  simp

/-! ## The operation map -/

/-- Which named bits each row of R82 reads, by the decoder: the order of the tests. -/
theorem decodeCyc_iff_pins (v : CycVector) :
    (decodeCyc v = .reset ↔ pinRst v = true) ∧
    (decodeCyc v = .err ↔ pinRst v = false ∧ pinErr v = true) ∧
    (decodeCyc v = .eos ↔ pinRst v = false ∧ pinEos v = true ∧ pinErr v = false) ∧
    (decodeCyc v = .byte (pinRxData v) (pinTick v) ↔
      pinRst v = false ∧ pinEos v = false ∧ pinErr v = false ∧ pinRxValid v = true ∧ pinRxLast v = false) ∧
    (decodeCyc v = .byteLast (pinRxData v) (pinTick v) ↔
      pinRst v = false ∧ pinEos v = false ∧ pinErr v = false ∧ pinRxValid v = true ∧ pinRxLast v = true) ∧
    (decodeCyc v = .tick ↔
      pinRst v = false ∧ pinEos v = false ∧ pinErr v = false ∧ pinRxValid v = false ∧ pinTick v = true) ∧
    (decodeCyc v = .nop ↔
      pinRst v = false ∧ pinEos v = false ∧ pinErr v = false ∧ pinRxValid v = false ∧ pinTick v = false) := by
  unfold decodeCyc
  split_ifs <;> simp_all

/-- Which named bits each row of R82 reads, by the row's mask and pattern. -/
theorem masked_iff_pins (v : CycVector) :
    (v &&& 0x2000 = 0x2000 ↔ pinRst v = true) ∧
    (v &&& 0x2800 = 0x0800 ↔ pinRst v = false ∧ pinErr v = true) ∧
    (v &&& 0x3800 = 0x1000 ↔ pinRst v = false ∧ pinEos v = true ∧ pinErr v = false) ∧
    (v &&& 0x3E00 = 0x0400 ↔
      pinRst v = false ∧ pinEos v = false ∧ pinErr v = false ∧ pinRxValid v = true ∧ pinRxLast v = false) ∧
    (v &&& 0x3E00 = 0x0600 ↔
      pinRst v = false ∧ pinEos v = false ∧ pinErr v = false ∧ pinRxValid v = true ∧ pinRxLast v = true) ∧
    (v &&& 0x3D00 = 0x0100 ↔
      pinRst v = false ∧ pinEos v = false ∧ pinErr v = false ∧ pinRxValid v = false ∧ pinTick v = true) ∧
    (v &&& 0x3D00 = 0x0000 ↔
      pinRst v = false ∧ pinEos v = false ∧ pinErr v = false ∧ pinRxValid v = false ∧ pinTick v = false) := by
  refine ⟨?_, ?_, ?_, ?_, ?_, ?_, ?_⟩ <;>
    simp [cycVector_ext_iff, pinRst, pinEos, pinErr, pinRxValid, pinRxLast, pinTick, pinRxData, BitVec.extractLsb'_and]

/-- A byte operation and its flags stand for exactly one vector. -/
theorem decodeCyc_eq_byteOp_iff (last : Bool) {v : CycVector} {d : Byte} {tick : Bool} :
    decodeCyc v = (if last then .byteLast d tick else .byte d tick) ↔ v = byteVector last tick d := by
  simp only [cycVector_ext_iff, pinRst_byteVector, pinEos_byteVector, pinErr_byteVector, pinRxValid_byteVector,
    pinRxLast_byteVector, pinTick_byteVector, pinRxData_byteVector]
  unfold decodeCyc
  cases last <;> split_ifs <;> simp_all [and_comm]

theorem decodeCyc_byteVector (last tick : Bool) (d : Byte) :
    decodeCyc (byteVector last tick d) = if last then .byteLast d tick else .byte d tick :=
  (decodeCyc_eq_byteOp_iff last).mpr rfl

/-- The vectors of the byte operations are the byte vectors. -/
theorem isByteOp_decodeCyc_iff {v : CycVector} :
    isByteOp (decodeCyc v) = true ↔ ∃ last tick d, v = byteVector last tick d := by
  constructor
  · intro hv
    rcases decodeCyc_cases v with h | h | h | h | h | h | h
    case inr.inr.inr.inl => exact ⟨_, _, _, (decodeCyc_eq_byteOp_iff false).mp h⟩
    case inr.inr.inr.inr.inl => exact ⟨_, _, _, (decodeCyc_eq_byteOp_iff true).mp h⟩
    all_goals exact absurd (h ▸ hv) (by decide)
  · rintro ⟨last, tick, d, rfl⟩
    rw [decodeCyc_byteVector]
    cases last <;> rfl

theorem decodeCyc_format (v : CycVector) : (decodeCyc v).format = .cyc := by
  rcases decodeCyc_cases v with h | h | h | h | h | h | h <;> rw [h] <;> rfl

/-- A tick in a byte's cycle is ignored (40_synchronizer.md R119). -/
theorem exec_byteVector_clearTick (last tick : Bool) (d : Byte) (s : State) :
    exec (decodeCyc (byteVector last tick d)) s = exec (decodeCyc (byteVector last tick d &&& 0x3EFF)) s := by
  rw [byteVector_clearTick, decodeCyc_byteVector, decodeCyc_byteVector]
  cases last <;> rfl

/-- Settles O34: decoder and mask of a row read the same named bits. -/
theorem decodeFollowsTheOperationMap : Obligations.DecodeFollowsTheOperationMap := by
  intro v
  obtain ⟨dReset, dErr, dEos, dByte, dByteLast, dTick, dNop⟩ := decodeCyc_iff_pins v
  obtain ⟨mReset, mErr, mEos, mByte, mByteLast, mTick, mNop⟩ := masked_iff_pins v
  refine ⟨dReset.trans mReset.symm, dErr.trans mErr.symm, dEos.trans mEos.symm, dByte.trans mByte.symm,
    dByteLast.trans mByteLast.symm, dTick.trans mTick.symm, dNop.trans mNop.symm, decodeCyc_format v,
    fun d tick h => ?byte, fun d tick h => ?byteLast, fun h s => ?clearTick⟩
  case byte =>
    rw [(decodeCyc_eq_byteOp_iff false).mp h]
    exact ⟨(pinRxData_byteVector false tick d).symm, (pinTick_byteVector false tick d).symm⟩
  case byteLast =>
    rw [(decodeCyc_eq_byteOp_iff true).mp h]
    exact ⟨(pinRxData_byteVector true tick d).symm, (pinTick_byteVector true tick d).symm⟩
  case clearTick =>
    obtain ⟨last, tick, d, rfl⟩ := isByteOp_decodeCyc_iff.mp h
    exact exec_byteVector_clearTick last tick d s

/-- Settles O36. -/
theorem writtenWordsDecode : Obligations.WrittenWordsDecode := by
  unfold Obligations.WrittenWordsDecode
  decide

/-! ## Encoding and decoding -/

@[simp] theorem regAt_addrOf (r : RegName) : regAt (addrOf r) = r := by cases r <;> rfl

/-- The format of a port word. -/
def portFormat : PortWord → Format
  | .cyc _ => .cyc
  | .rd _ => .rd

theorem portFormat_encode (i : Instr) : portFormat (encode i) = i.format := by cases i <;> rfl

/-- Every operation is what its port word decodes to (30_encoding.md R82, R85). -/
theorem decodePort_encode (i : Instr) : decodePort (encode i) = i := by
  cases i with
  | byte d tick => exact decodeCyc_byteVector false tick d
  | byteLast d tick => exact decodeCyc_byteVector true tick d
  | _ => rfl

/-- The two bytes of a vector put together again: bits 7:0 and 13:8. -/
theorem setWidth_append_extractLsb' (v : CycVector) :
    ((v.extractLsb' 8 6).setWidth 8 ++ v.extractLsb' 0 8).setWidth 14 = v := by
  apply BitVec.eq_of_getLsbD_eq
  intro i hi
  simp only [BitVec.getLsbD_setWidth, BitVec.getLsbD_append, BitVec.getLsbD_extractLsb']
  by_cases hlow : i < 8
  · simp [hlow, hi]
  · simp [hlow, hi, show i - 8 < 6 by omega, show i - 8 < 8 by omega, show 8 + (i - 8) = i by omega]

/-- A port word is read back from its bytes. -/
theorem portWordOfBytes_portWordBytes (w : PortWord) : portWordOfBytes (portFormat w) (portWordBytes w) = .ok w := by
  cases w with
  | cyc v =>
    have hhi : ((v.extractLsb' 8 6).setWidth 8).toNat < 64 := by
      have := (v.extractLsb' 8 6).isLt
      simp only [BitVec.toNat_setWidth]
      omega
    simp only [portFormat, portWordBytes, portWordOfBytes, if_pos hhi, setWidth_append_extractLsb']
  | rd a =>
    have ha : (a.setWidth 8).toNat < 8 := by
      have := a.isLt
      simp only [BitVec.toNat_setWidth]
      omega
    simp only [portFormat, portWordBytes, portWordOfBytes, if_pos ha]
    simp

theorem decode_portWordBytes (w : PortWord) : decode (portFormat w) (portWordBytes w) = .ok (decodePort w) := by
  simp only [decode, portWordOfBytes_portWordBytes]

/-- The bytes of an operation decode to it. -/
theorem decode_encodeBytes (i : Instr) : decode i.format (encodeBytes i) = .ok i := by
  rw [encodeBytes, ← portFormat_encode, decode_portWordBytes, decodePort_encode]

/-- The encoding of a byte operation keeps every bit of its vector. -/
theorem encode_decodeCyc_byteVector (last tick : Bool) (d : Byte) :
    encode (decodeCyc (byteVector last tick d)) = .cyc (byteVector last tick d) := by
  rw [decodeCyc_byteVector]
  cases last <;> rfl

/-- Settles O35: port words and bytes lead back (`decodePort_encode`, `decode_encodeBytes`), and the vector of a byte
operation is a byte vector. -/
theorem decodeOfEncodeIsTheOperation : Obligations.DecodeOfEncodeIsTheOperation := by
  refine ⟨fun i _ => ⟨decodePort_encode i, decode_encodeBytes i⟩, fun v hv => ?_⟩
  obtain ⟨last, tick, d, rfl⟩ := isByteOp_decodeCyc_iff.mp hv
  exact encode_decodeCyc_byteVector last tick d

end Sys2Proof.Machine
end

section
/-! SUPPORT. What the encodings mean in a step (30_encoding.md R80, R97, R98): a NOP cycle, a placed opcode-table word, the
trace lines and the pseudo-operations. -/

namespace Sys2Proof.Machine

/-! ## The two operations of a step -/

/-- A step runs the operation of its vector on the state in which the port shows the word at its address. -/
theorem step_eq_exec (s : State) :
    step s = exec (decodeCyc (nextPins s).vec) (showWord (regRead (takeCycle s) (nextPins s).rdAddr) (takeCycle s)) := by
  unfold step
  rw [exec_decodeRd]

/-- The first listed cycle is the one a step takes. -/
theorem nextPins_takeCycle_of_inputs {s : State} {p : Pins} {rest : List Pins} (h : s.inputs = p :: rest) :
    nextPins s = p ∧ takeCycle s = { s with inputs := rest } := by
  simp only [nextPins, takeCycle, h, and_self]

/-- Settles O20. -/
theorem stepRunsTheDecodedOperations : Obligations.StepRunsTheDecodedOperations := fun s =>
  ⟨_, exec_decodeRd _ _, step_eq_exec s, fun _ _ => nextPins_takeCycle_of_inputs⟩

theorem decodeCyc_zero : decodeCyc 0x0000 = .nop := by decide

/-- A NOP cycle shows its word and clears the event flags (40_synchronizer.md R113). -/
theorem cycle_of_nop {p : Pins} (hp : decodeCyc p.vec = .nop) (s : State) :
    cycle p s = { onlyEventsCleared s with rdData := regRead s p.rdAddr } := by
  simp only [cycle, hp, edge, clearEvents]

/-- Settles O14: the three arms of `exec_readOf` for the counters. -/
theorem rdCountersShowTheCounters : Obligations.RdCountersShowTheCounters :=
  ⟨rfl, rfl, rfl, fun s => ⟨exec_readOf .FRAMES s, exec_readOf .OVERRUNS s, exec_readOf .TIMEOUTS s⟩⟩

/-! ## A placed opcode-table word -/

/-- Bytes of a format are read as a port word of that format. -/
theorem portFormat_of_portWordOfBytes {fmt : Format} {bytes : List Byte} {w : PortWord}
    (h : (portWordOfBytes fmt bytes).toOption = some w) : portFormat w = fmt := by
  unfold portWordOfBytes at h
  split at h
  case h_1 => split_ifs at h <;> cases h; rfl
  case h_2 => cases h
  case h_3 => split_ifs at h <;> cases h; rfl
  case h_4 => cases h

/-- A table word is a port word of the format of its row's width. -/
theorem portFormat_of_tablePortWord {nbits w : Nat} {pw : PortWord} (h : tablePortWord nbits w = some pw) :
    portFormat pw = if (nbits + 7) / 8 ≤ 1 then .rd else .cyc := by
  simp only [tablePortWord] at h
  split_ifs at h ⊢
  · exact portFormat_of_portWordOfBytes h
  · exact portFormat_of_portWordOfBytes h

theorem tablePortWord_of_decodeTableWord_16 {w : Nat} {i : Instr} (h : decodeTableWord 16 w = some i) :
    ∃ v, tablePortWord 16 w = some (.cyc v) ∧ decodeCyc v = i := by
  obtain ⟨pw, hpw, rfl⟩ := Option.map_eq_some_iff.mp h
  have hfmt := portFormat_of_tablePortWord hpw
  cases pw with
  | cyc v => exact ⟨v, hpw, rfl⟩
  | rd a => cases hfmt

theorem tablePortWord_of_decodeTableWord_8 {w : Nat} {i : Instr} (h : decodeTableWord 8 w = some i) :
    ∃ a, tablePortWord 8 w = some (.rd a) ∧ decodeRd a = i := by
  obtain ⟨pw, hpw, rfl⟩ := Option.map_eq_some_iff.mp h
  have hfmt := portFormat_of_tablePortWord hpw
  cases pw with
  | cyc v => cases hfmt
  | rd a => exact ⟨a, hpw, rfl⟩

/-- A placed CYC word replaces the next cycle by one with its vector, at some read address. -/
theorem withFetchWord_of_cyc {nbits w : Nat} {v : CycVector} (h : tablePortWord nbits w = some (.cyc v)) (s : State) :
    ∃ a, s.withFetchWord nbits w = present [{ vec := v, rdAddr := a }] { s with inputs := s.inputs.tail } := by
  cases hin : s.inputs with
  | nil => exact ⟨0, by simp only [State.withFetchWord, h, hin]; rfl⟩
  | cons p rest => exact ⟨p.rdAddr, by simp only [State.withFetchWord, h, hin]; rfl⟩

/-- A placed RD word replaces the next cycle by the READ line's (30_encoding.md R97). -/
theorem withFetchWord_of_rd {nbits w : Nat} {a : RdAddr} (h : tablePortWord nbits w = some (.rd a)) (s : State) :
    s.withFetchWord nbits w = present [{ vec := 0x0000, rdAddr := a }] { s with inputs := s.inputs.tail } := by
  simp only [State.withFetchWord, h]
  rfl

/-- Settles O21: the placed word is the one presented cycle, and the step runs it. -/
theorem placedWordIsRunByTheNextStep : Obligations.PlacedWordIsRunByTheNextStep := by
  refine ⟨fun s w i hi => ?cyc, fun s w i hi => ?rd⟩
  case cyc =>
    obtain ⟨v, hv, rfl⟩ := tablePortWord_of_decodeTableWord_16 hi
    obtain ⟨a, ha⟩ := withFetchWord_of_cyc hv s
    rw [ha]
    exact ⟨_, step_eq_exec _, rfl, rfl, rfl, rfl⟩
  case rd =>
    obtain ⟨a, ha, rfl⟩ := tablePortWord_of_decodeTableWord_8 hi
    refine ⟨_, exec_decodeRd a s, ?_⟩
    rw [withFetchWord_of_rd ha, step_present_cons, cycle_of_nop (p := { vec := 0x0000, rdAddr := a }) decodeCyc_zero]
    rfl

/-! ## Trace lines and pseudo-operations -/

/-- A trace line's byte vector, the flags or-ed with the byte. -/
theorem decodeCyc_flags_or_byte (last tick : Bool) (d : Byte) :
    decodeCyc (byteVector last tick 0 ||| d.setWidth 14) = if last then .byteLast d tick else .byte d tick := by
  rw [← byteVector_eq_or, decodeCyc_byteVector]

/-- The vector a trace line drives stands for the line's operation (30_encoding.md R97). -/
theorem decodeCyc_lineVector (l : TraceLine) : decodeCyc (lineVector l) = lineInstr l := by
  cases l with
  | byte d => exact decodeCyc_flags_or_byte false false d
  | byteL d => exact decodeCyc_flags_or_byte true false d
  | byteT d => exact decodeCyc_flags_or_byte false true d
  | byteLT d => exact decodeCyc_flags_or_byte true true d
  | read r => exact decodeCyc_zero
  | _ => rfl

/-- Settles O37: a READ line's cycle is a NOP cycle at the register's address. -/
theorem traceLinesStandForTheirOperations : Obligations.TraceLinesStandForTheirOperations := by
  refine ⟨decodeCyc_lineVector, fun r other s => ?_⟩
  have hword : regRead s (addrOf r) = regWord s r := by rw [regRead, regAt_addrOf]
  rw [runCycles_singleton, cycle_of_nop (p := linePins other (.read r)) (decodeCyc_lineVector (.read r)), ← hword]
  rfl

/-- A byte before a non-empty chunk is a BYTE line. -/
theorem chunkLines_cons (b : Byte) {bs : List Byte} (hbs : bs ≠ []) : chunkLines (b :: bs) = .byte b :: chunkLines bs := by
  cases bs with
  | nil => exact absurd rfl hbs
  | cons c cs => rfl

/-- A chunk is BYTE lines and a last BYTEL (30_encoding.md R98). -/
theorem chunkLines_concat (bs : List Byte) (b : Byte) : chunkLines (bs ++ [b]) = bs.map .byte ++ [.byteL b] := by
  induction bs with
  | nil => rfl
  | cons c cs ih => rw [List.cons_append, chunkLines_cons c (by simp), ih]; rfl

/-- Settles O38. -/
theorem pseudoOperationsExpand : Obligations.PseudoOperationsExpand :=
  ⟨chunkLines_concat, fun _ _ _ _ _ _ => rfl, fun _ => rfl, fun _ => ⟨rfl, rfl⟩⟩

end Sys2Proof.Machine
end

section
/-! SUPPORT. Reserved bits and codes of the read words (30_encoding.md R87 to R95), bit field by bit field of each word. -/

namespace Sys2Proof.Machine

/-- The reserved bits of a STATUS word (30_encoding.md R87), for any frame. -/
theorem statusFor_reserved (valid : Bool) (f : FrameWord) :
    (statusFor valid f).getLsbD 15 = false ∧ (statusFor valid f).extractLsb' 23 8 = 0 := by
  refine ⟨?_, BitVec.eq_of_getLsbD_eq fun i hi => ?_⟩
  · simp only [statusFor, extract, BitVec.getLsbD_append, BitVec.getLsbD_extractLsb']
    simp
  · simp only [statusFor, extract, BitVec.getLsbD_append, BitVec.getLsbD_extractLsb']
    interval_cases i <;> simp

/-- Zero extension reads 0 above the width it extends. -/
theorem extractLsb'_setWidth_eq_zero {m n : Nat} (w : BitVec m) {lo len : Nat} (h : m ≤ lo) :
    (w.setWidth n).extractLsb' lo len = 0 := by
  apply BitVec.eq_of_getLsbD_eq
  intro i hi
  have hbit : w.getLsbD (lo + i) = false := BitVec.getLsbD_of_ge w (lo + i) (by omega)
  simp [hbit]

/-- The reserved bits of a SYNC word (30_encoding.md R90). -/
theorem syncWord_reserved (f : Fsync) :
    (syncWord f).getLsbD 3 = false ∧ (syncWord f).getLsbD 7 = false ∧ (syncWord f).extractLsb' 10 2 = 0 := by
  refine ⟨?_, ?_, BitVec.eq_of_getLsbD_eq fun i hi => ?_⟩
  · simp only [syncWord, BitVec.getLsbD_append]
    simp
  · simp only [syncWord, BitVec.getLsbD_append]
    simp
  · simp only [syncWord, BitVec.getLsbD_append, BitVec.getLsbD_extractLsb']
    interval_cases i <;> simp

/-- STATE is the code of the synchronizer state. -/
theorem syncWord_state (f : Fsync) : (syncWord f).extractLsb' 0 3 = stateCode (syncState f) := by
  apply BitVec.eq_of_getLsbD_eq
  intro i hi
  simp only [syncWord, BitVec.getLsbD_append, BitVec.getLsbD_extractLsb']
  simp [hi]

theorem syncWord_haltCause (f : Fsync) : (syncWord f).extractLsb' 8 2 = f.haltCause := by
  apply BitVec.eq_of_getLsbD_eq
  intro i hi
  simp only [syncWord, BitVec.getLsbD_append, BitVec.getLsbD_extractLsb']
  interval_cases i <;> simp

/-- The code 3 of RESYNC and the codes above 4 stand for no state that is held between two steps (10_state.md R41). -/
theorem stateCode_syncState (f : Fsync) :
    stateCode (syncState f) = 0 ∨ stateCode (syncState f) = 1 ∨ stateCode (syncState f) = 2 ∨
      stateCode (syncState f) = 4 := by
  unfold syncState
  split_ifs <;> simp [stateCode]

/-- Settles O18: most of R95 is the layout of the words; STATUS needs that it holds the record of `frame`, HALT_CAUSE that
the cause is one of R38's. -/
theorem reservedBitsReadZero : Obligations.ReservedBitsReadZero := by
  intro s ⟨_, hinv⟩
  obtain ⟨hcause, _⟩ := haltCause_of_fsyncInv hinv
  obtain ⟨_, _, _, _, _, _, hStatus, _⟩ := hinv
  have hStatusWord : regRead s 0 = statusFor s.fsync.valid s.fsync.frame := hStatus
  have hFrameHi : regRead s 2 = (s.fsync.frame.extractLsb' 32 16).setWidth 32 := rfl
  have hSync : regRead s 3 = syncWord s.fsync := rfl
  have hConfig : regRead s 7 = (Config.frameLen ++ s.params.T).setWidth 32 := rfl
  obtain ⟨hbit15, hbits30⟩ := statusFor_reserved s.fsync.valid s.fsync.frame
  obtain ⟨hbit3, hbit7, hbits11⟩ := syncWord_reserved s.fsync
  rw [hStatusWord, hFrameHi, hSync, hConfig, syncWord_state, syncWord_haltCause]
  exact ⟨hbit15, hbits30, extractLsb'_setWidth_eq_zero _ le_rfl, hbit3, hbit7, hbits11,
    extractLsb'_setWidth_eq_zero _ (by decide), stateCode_syncState s.fsync, hcause⟩

end Sys2Proof.Machine
end

section
/-! SUPPORT. One rule per CYC operation (40_synchronizer.md R113 to R118): what its edge makes of FSYNC while halted
and while not halted, and the statements about one operation that these rules settle. -/

namespace Sys2Proof.Machine

/-! ## An operation's edge -/

/-- A CYC operation changes FSYNC as `edge` says and nothing else. -/
theorem exec_of_format_cyc {i : Instr} (hi : i.format = .cyc) (s : State) :
    exec i s = .next { s with fsync := edge s.params.T i s.fsync } := by
  cases i with
  | rdStatus | rdFrameLo | rdFrameHi | rdSync | rdFrames | rdOverruns | rdTimeouts | rdConfig =>
    exact absurd hi (by decide)
  | _ => rfl

/-- What a CYC operation leaves of FSYNC when it answers. -/
theorem exec_next {i : Instr} (hi : i.format = .cyc) {s t : State} (h : exec i s = .next t) :
    t.fsync = edge s.params.T i s.fsync := by
  rw [exec_of_format_cyc hi] at h
  cases h
  rfl

section Edges
variable (T : BitVec 16) (d : Byte) (tick : Bool) {f : Fsync}

/-- While halted only RESET does more than clear the event flags (40_synchronizer.md R111). -/
theorem edge_of_halted {i : Instr} (hi : i ≠ .reset) (hh : f.halted = true) : edge T i f = clearEvents f := by
  cases i with
  | reset => exact absurd rfl hi
  | err | eos | byte | byteLast => exact if_pos hh
  | tick => exact if_neg (by rw [syncState_clearEvents, (syncState_halted_iff f).mpr hh]; decide)
  | _ => rfl

/-- Halt from a state that is not halted (40_synchronizer.md R125). -/
theorem haltLoop_of_not_halted (c : BitVec 2) (hh : f.halted = false) :
    haltLoop c f =
      { f with cnt := 0, chunkOpen := false, idleCnt := 0, halted := true, haltCause := c, evHalt := true } := by
  rcases haltLoop_cases c f with ⟨hh', _⟩ | ⟨_, e⟩
  · exact absurd (hh.symm.trans hh') nofun
  · exact e

theorem edge_byte (hh : f.halted = false) :
    edge T (.byte d tick) f = { appendByte d (clearEvents f) with chunkOpen := true } := by
  rcases acceptByte_cases d (clearEvents f) with ⟨hh', _⟩ | ⟨_, e⟩
  · exact absurd (hh.symm.trans hh') nofun
  · exact e

theorem edge_byteLast (hh : f.halted = false) :
    edge T (.byteLast d tick) f = evaluateChunk (appendByte d (clearEvents f)) := by
  rcases acceptLastByte_cases d (clearEvents f) with ⟨hh', _⟩ | ⟨_, e⟩
  · exact absurd (hh.symm.trans hh') nofun
  · exact e

/-- The counter after Append on the state with the flags cleared, against the numbers Evaluate tests. -/
theorem appendByte_clearEvents_cnt : (appendByte d (clearEvents f)).cnt.toNat = min (f.cnt.toNat + 1) 7 :=
  appendByte_cnt d (clearEvents f)

/-- The sixth byte closes its chunk: Emit (40_synchronizer.md R121). -/
theorem edge_byteLast_emit (hh : f.halted = false) (hcnt : f.cnt.toNat = 5) :
    edge T (.byteLast d tick) f =
      { appendByte d (clearEvents f) with
        chunkOpen := false, frame := bufferFrame (appendByte d (clearEvents f)).buf, valid := true
        status := statusFor true (bufferFrame (appendByte d (clearEvents f)).buf)
        frames := f.frames + 1, cnt := 0, evFrame := true } := by
  have hn := appendByte_clearEvents_cnt d (f := f)
  rw [edge_byteLast T d tick hh]
  rcases evaluateChunk_cases (appendByte d (clearEvents f)) with ⟨_, e⟩ | ⟨h7, _⟩ | ⟨h6, _, _⟩
  · exact e
  · bv_omega
  · bv_omega

/-- A byte after the sixth closes its chunk: Overrun (40_synchronizer.md R122). -/
theorem edge_byteLast_overrun (hh : f.halted = false) (hcnt : 6 ≤ f.cnt.toNat) :
    edge T (.byteLast d tick) f =
      { appendByte d (clearEvents f) with
        chunkOpen := false, overruns := f.overruns + 1, cnt := 0, evOvr := true } := by
  have hn := appendByte_clearEvents_cnt d (f := f)
  have h7 : (appendByte d (clearEvents f)).cnt = 7 := by bv_omega
  rw [edge_byteLast T d tick hh]
  rcases evaluateChunk_cases (appendByte d (clearEvents f)) with ⟨h6, _⟩ | ⟨_, e⟩ | ⟨_, h7', _⟩
  · exact absurd (h7.symm.trans h6) (by decide)
  · exact e
  · exact absurd h7 h7'

/-- One of the first five bytes closes its chunk: Arm (40_synchronizer.md R123). -/
theorem edge_byteLast_arm (hh : f.halted = false) (hcnt : f.cnt.toNat ≤ 4) :
    edge T (.byteLast d tick) f = { appendByte d (clearEvents f) with chunkOpen := false } := by
  have hn := appendByte_clearEvents_cnt d (f := f)
  rw [edge_byteLast T d tick hh]
  rcases evaluateChunk_cases (appendByte d (clearEvents f)) with ⟨h6, _⟩ | ⟨h7, _⟩ | ⟨_, _, e⟩
  · bv_omega
  · bv_omega
  · exact e

/-- What BYTE_LAST does whatever the count: the byte is appended, the chunk closed and the timer cancelled; it never
times out and never halts. -/
theorem edge_byteLast_closes {g : Fsync} (hg : g = edge T (.byteLast d tick) f) (hh : f.halted = false) :
    (∀ j : Fin 6, g.buf[j] = if j.val = f.cnt.toNat then d else f.buf[j]) ∧
    g.chunkOpen = false ∧ g.idleCnt = 0 ∧ sameHalt f g ∧ g.evTmo = false ∧ g.evHalt = false ∧
    g.timeouts = f.timeouts := by
  have hbuf := appendByte_buf d (clearEvents f)
  rw [edge_byteLast T d tick hh] at hg
  rcases evaluateChunk_cases (appendByte d (clearEvents f)) with ⟨_, e⟩ | ⟨_, e⟩ | ⟨_, _, e⟩ <;> rw [hg, e] <;>
    exact ⟨hbuf, rfl, rfl, ⟨rfl, rfl⟩, rfl, rfl, rfl⟩

/-- TICK outside ACCUM (40_synchronizer.md R116). -/
theorem edge_tick_of_ne_accum (ha : syncState f ≠ .accum) : edge T .tick f = clearEvents f :=
  if_neg ha

theorem edge_tick_timeout (ha : syncState f = .accum) (ht : f.idleCnt + 1 = T) :
    edge T .tick f = { clearEvents f with timeouts := f.timeouts + 1, cnt := 0, idleCnt := 0, evTmo := true } :=
  (if_pos ha).trans (if_pos ht)

theorem edge_tick_count (ha : syncState f = .accum) (ht : f.idleCnt + 1 ≠ T) :
    edge T .tick f = { clearEvents f with idleCnt := f.idleCnt + 1 } :=
  (if_pos ha).trans (if_neg ht)

end Edges

/-! ## The statements about one operation -/

/-- An operation that FSYNC drops while halted clears the event flags and does nothing else (R111). -/
theorem exec_of_halted {i : Instr} (hi : i.format = .cyc) (hr : i ≠ .reset) {s : State} (hh : s.fsync.halted = true) :
    exec i s = .next (onlyEventsCleared s) := by
  rw [exec_of_format_cyc hi, edge_of_halted _ hr hh]
  rfl

/-- Settles O4. -/
theorem nopOnlyClearsEventFlags : Obligations.NopOnlyClearsEventFlags := by
  refine ⟨fun v hv => ?_, fun s => rfl⟩
  obtain ⟨_, _, _, _, _, _, hnop, _⟩ := decodeFollowsTheOperationMap v
  exact hnop.mpr hv

/-- Settles O5: `edge_byte`, with Append's count and buffer. -/
theorem byteStoresCountsAndOpensChunk : Obligations.ByteStoresCountsAndOpensChunk := by
  refine ⟨fun v hv => ?_, fun d tick s => ⟨exec_of_halted (i := .byte d tick) rfl nofun, fun hh => ?_⟩⟩
  · obtain ⟨_, _, _, hbyte, _⟩ := decodeFollowsTheOperationMap v
    exact hbyte.mpr hv
  · refine ⟨_, exec_of_format_cyc rfl s, ?_⟩
    rw [edge_byte _ d tick hh]
    exact ⟨appendByte_buf d (clearEvents s.fsync), appendByte_clearEvents_cnt d, rfl, rfl,
      (syncState_recv_iff _).mpr ⟨hh, rfl⟩, ⟨rfl, rfl, rfl, rfl⟩, ⟨rfl, rfl⟩, ⟨rfl, rfl, rfl⟩, ⟨rfl, rfl, rfl⟩,
      ⟨rfl, rfl, rfl, rfl⟩⟩

/-- Settles O6: what BYTE_LAST always does (`edge_byteLast_closes`), and for each of the three counts its rule. -/
theorem byteLastEvaluatesTheChunk : Obligations.ByteLastEvaluatesTheChunk := by
  refine ⟨fun v hv => ?_, fun d tick s => ⟨exec_of_halted (i := .byteLast d tick) rfl nofun, fun hh => ?_⟩⟩
  · obtain ⟨_, _, _, _, hlast, _⟩ := decodeFollowsTheOperationMap v
    exact hlast.mpr hv
  · obtain ⟨hbuf, hopen, hidle, hhalt, htmo, hhaltEv, _⟩ := edge_byteLast_closes s.params.T d tick rfl hh
    refine ⟨_, exec_of_format_cyc rfl s, hbuf, hopen, hidle, hhalt, ⟨rfl, rfl, rfl, rfl⟩, htmo, hhaltEv,
      fun hn => ?emit, fun hn => ?overrun, fun hn => ?arm⟩
    case emit =>
      rw [edge_byteLast_emit _ d tick hh (by omega)]
      exact ⟨rfl, (syncState_idle_iff _).mpr ⟨hh, rfl, rfl⟩, frameByte_bufferFrame _, rfl, statusFor_true _, rfl, rfl,
        rfl, rfl, rfl⟩
    case overrun =>
      rw [edge_byteLast_overrun _ d tick hh (by omega)]
      exact ⟨rfl, (syncState_idle_iff _).mpr ⟨hh, rfl, rfl⟩, ⟨rfl, rfl, rfl⟩, rfl, rfl, rfl, rfl, rfl⟩
    case arm =>
      have hcnt := appendByte_clearEvents_cnt d (f := s.fsync)
      rw [edge_byteLast_arm _ d tick hh (by omega)]
      exact ⟨by simp only [hcnt]; omega, (syncState_accum_iff _).mpr ⟨hh, rfl, by bv_omega⟩, ⟨rfl, rfl, rfl⟩,
        ⟨rfl, rfl, rfl⟩, rfl, rfl⟩

/-- Settles O7: the three rules of the timer's edge. -/
theorem tickCountsAndExpiresInAccumOnly : Obligations.TickCountsAndExpiresInAccumOnly := by
  refine ⟨fun v hv => ?_, fun s => ⟨fun ha => ?_, fun ha ht => ?_, fun ha ht => ?_⟩⟩
  · obtain ⟨_, _, _, _, _, htick, _⟩ := decodeFollowsTheOperationMap v
    exact htick.mpr hv
  · rw [exec_of_format_cyc rfl, edge_tick_of_ne_accum _ ha]
    rfl
  · refine ⟨_, exec_of_format_cyc rfl s, ?_⟩
    rw [edge_tick_count _ ha ht]
    exact ⟨rfl, ⟨rfl, rfl, rfl, rfl⟩, rfl⟩
  · obtain ⟨hh, hopen, _⟩ := (syncState_accum_iff _).mp ha
    refine ⟨_, exec_of_format_cyc rfl s, ?_⟩
    rw [edge_tick_timeout _ ha ht]
    exact ⟨rfl, rfl, (syncState_idle_iff _).mpr ⟨hh, hopen, rfl⟩, rfl, rfl, rfl, rfl, rfl, rfl, rfl, ⟨rfl, rfl⟩,
      ⟨rfl, rfl, rfl⟩, rfl, rfl, ⟨rfl, rfl, rfl, rfl⟩⟩

/-- The edge of EOS and ERR enters HALTED (40_synchronizer.md R125). -/
theorem haltEntered_clocked_haltLoop (c : BitVec 2) {s : State} (hh : s.fsync.halted = false) :
    haltEntered c s (clocked (haltLoop c) s) := by
  have e : (clocked (haltLoop c) s).fsync = _ := haltLoop_of_not_halted (f := clearEvents s.fsync) c hh
  rw [haltEntered, e]
  exact ⟨rfl, rfl, rfl, rfl, rfl, rfl, rfl, rfl, rfl, rfl, ⟨rfl, rfl, rfl⟩, ⟨rfl, rfl, rfl⟩, ⟨rfl, rfl, rfl, rfl⟩⟩

/-- Settles O8. -/
theorem eosHaltsWithCauseOne : Obligations.EosHaltsWithCauseOne := by
  refine ⟨fun v hv => ?_, fun s =>
    ⟨fun hh => ⟨_, rfl, haltEntered_clocked_haltLoop 1 hh⟩, exec_of_halted (i := .eos) rfl nofun⟩⟩
  obtain ⟨_, _, heos, _⟩ := decodeFollowsTheOperationMap v
  exact heos.mpr hv

/-- Settles O9. -/
theorem errHaltsWithCauseTwo : Obligations.ErrHaltsWithCauseTwo := by
  refine ⟨fun v hv => ?_, fun s =>
    ⟨fun hh => ⟨_, rfl, haltEntered_clocked_haltLoop 2 hh⟩, exec_of_halted (i := .err) rfl nofun⟩⟩
  obtain ⟨_, herr, _⟩ := decodeFollowsTheOperationMap v
  exact herr.mpr hv

/-- A byte operation does not touch the timeout counter, and an accepted one leaves the timer at 0. -/
theorem edge_byteOp_timer {T : BitVec 16} {i : Instr} {f g : Fsync} (hg : g = edge T i f) (hi : isByteOp i = true) :
    g.timeouts = f.timeouts ∧ g.evTmo = false ∧ (f.halted = false → g.idleCnt = 0) := by
  cases hh : f.halted
  case true =>
    rw [hg, edge_of_halted T (by rintro rfl; cases hi) hh]
    exact ⟨rfl, rfl, nofun⟩
  case false =>
    cases i with
    | byte d tick =>
      rw [hg, edge_byte T d tick hh]
      exact ⟨rfl, rfl, fun _ => rfl⟩
    | byteLast d tick =>
      obtain ⟨_, _, hidle, _, htmo, _, htimeouts⟩ := edge_byteLast_closes T d tick hg hh
      exact ⟨htimeouts, htmo, fun _ => hidle⟩
    | _ => cases hi

/-- Settles O31: neither meaning reads its tick, and neither does what only TICK does. -/
theorem byteBeatsTick : Obligations.ByteBeatsTick :=
  ⟨fun _ _ => ⟨rfl, rfl⟩, fun _ _ h hi => edge_byteOp_timer (step_next h).1 hi⟩

end Sys2Proof.Machine
end

section
/-! SUPPORT. What an edge does to the count, the flags and the synchronizer state: when it empties the buffer
(40_synchronizer.md R126), and the transition table (R131). -/

namespace Sys2Proof.Machine

/-! ## Count and flags -/

section Inversion
variable {T : BitVec 16} {v : CycVector} {f g : Fsync}

/-- An edge empties the buffer, by RESET or with an event; or it has no event and keeps the count; or it has no event
and counts an accepted byte (40_synchronizer.md R112, R126). -/
theorem edge_cnt_cases (hg : g = edge T (decodeCyc v) f) :
    (g.cnt = 0 ∧ (decodeCyc v = .reset ∨ ¬ noEvent g)) ∨
    (noEvent g ∧ g.cnt = f.cnt) ∨
    (noEvent g ∧ isByteOp (decodeCyc v) = true ∧ f.halted = false ∧ g.cnt.toNat = min (f.cnt.toNat + 1) 7) := by
  rcases edge_cases T v f g hg with
    ⟨hv, e⟩ | ⟨_, e, _⟩ | ⟨_, _, _, e⟩ | ⟨hv, hh, e⟩ | ⟨_, _, _, e⟩ | ⟨_, _, _, e⟩ | ⟨hv, hh, _, _, e⟩ | ⟨_, _, _, e⟩ |
    ⟨_, _, _, e⟩ <;> subst e
  · exact .inl ⟨rfl, .inl hv⟩
  · exact .inr (.inl ⟨⟨rfl, rfl, rfl, rfl⟩, rfl⟩)
  · exact .inl ⟨rfl, .inr (by simp)⟩
  · exact .inr (.inr ⟨⟨rfl, rfl, rfl, rfl⟩, by rw [hv]; rfl, hh, appendByte_clearEvents_cnt (pinRxData v)⟩)
  · exact .inl ⟨rfl, .inr (by simp)⟩
  · exact .inl ⟨rfl, .inr (by simp)⟩
  · exact .inr (.inr ⟨⟨rfl, rfl, rfl, rfl⟩, by rw [hv]; rfl, hh, appendByte_clearEvents_cnt (pinRxData v)⟩)
  · exact .inl ⟨rfl, .inr (by simp)⟩
  · exact .inr (.inl ⟨⟨rfl, rfl, rfl, rfl⟩, rfl⟩)

/-- An emission is the sixth byte closing its chunk (40_synchronizer.md R115, R121). -/
theorem edge_evFrame (hg : g = edge T (decodeCyc v) f) (hev : g.evFrame = true) :
    decodeCyc v = .byteLast (pinRxData v) (pinTick v) ∧ f.halted = false ∧ f.cnt.toNat = 5 := by
  have hn := appendByte_clearEvents_cnt (pinRxData v) (f := f)
  rcases edge_cases T v f g hg with
    ⟨_, e⟩ | ⟨_, e, _⟩ | ⟨_, _, _, e⟩ | ⟨_, _, e⟩ | ⟨hv, hh, h6, _⟩ | ⟨_, _, _, e⟩ | ⟨_, _, _, _, e⟩ | ⟨_, _, _, e⟩ |
    ⟨_, _, _, e⟩
  pick_goal 5 -- the emission
  · exact ⟨hv, hh, by bv_omega⟩
  all_goals simp [e, Fsync.reset] at hev

/-- An overrun is a byte after the sixth closing its chunk (40_synchronizer.md R115, R122). -/
theorem edge_evOvr (hg : g = edge T (decodeCyc v) f) (hev : g.evOvr = true) :
    decodeCyc v = .byteLast (pinRxData v) (pinTick v) ∧ f.halted = false ∧ 6 ≤ f.cnt.toNat := by
  have hn := appendByte_clearEvents_cnt (pinRxData v) (f := f)
  rcases edge_cases T v f g hg with
    ⟨_, e⟩ | ⟨_, e, _⟩ | ⟨_, _, _, e⟩ | ⟨_, _, e⟩ | ⟨_, _, _, e⟩ | ⟨hv, hh, h7, _⟩ | ⟨_, _, _, _, e⟩ | ⟨_, _, _, e⟩ |
    ⟨_, _, _, e⟩
  pick_goal 6 -- the overrun
  · exact ⟨hv, hh, by bv_omega⟩
  all_goals simp [e, Fsync.reset] at hev

/-- Only BYTE opens a chunk (40_synchronizer.md R114; 10_state.md R36). -/
theorem edge_chunkOpen (hg : g = edge T (decodeCyc v) f) (hopen : g.chunkOpen = true) :
    f.chunkOpen = true ∨ decodeCyc v = .byte (pinRxData v) (pinTick v) := by
  rcases edge_cases T v f g hg with
    ⟨_, e⟩ | ⟨_, e, _⟩ | ⟨_, _, _, e⟩ | ⟨hv, _, _⟩ | ⟨_, _, _, e⟩ | ⟨_, _, _, e⟩ | ⟨_, _, _, _, e⟩ | ⟨_, _, _, e⟩ |
    ⟨_, _, _, e⟩
  pick_goal 4 -- BYTE
  · exact .inr hv
  all_goals simp [e, Fsync.reset] at hopen
  all_goals exact .inl hopen

end Inversion

/-- The byte accepted into an empty buffer is buf[0] (40_synchronizer.md R126). -/
theorem edge_byteOp_of_empty {T : BitVec 16} {d : Byte} {tick : Bool} {f g : Fsync} (hcnt : f.cnt = 0)
    (hh : f.halted = false) (hg : g = edge T (.byte d tick) f ∨ g = edge T (.byteLast d tick) f) :
    g.buf[0] = d ∧ g.cnt = 1 := by
  have hzero : f.cnt.toNat = 0 := by rw [hcnt]; rfl
  have hbuf : (appendByte d (clearEvents f)).buf[0] = d :=
    (appendByte_buf d (clearEvents f) 0).trans (if_pos hzero.symm)
  have hn := appendByte_clearEvents_cnt d (f := f)
  have hone : (appendByte d (clearEvents f)).cnt = 1 := by bv_omega
  rcases hg with e | e
  · rw [e, edge_byte T d tick hh]
    exact ⟨hbuf, hone⟩
  · rw [e, edge_byteLast_arm T d tick hh (by omega)]
    exact ⟨hbuf, hone⟩

/-- Settles O33: `edge_cnt_cases` both ways, and `edge_byteOp_of_empty`. -/
theorem newGenerationOnlyByEventOrReset : Obligations.NewGenerationOnlyByEventOrReset := by
  refine ⟨fun s t h hs ht => ?emptied, fun s t h hev => ?event, fun s t d tick hcnt hh h => ?nextByte⟩
  case emptied =>
    rcases edge_cnt_cases (step_next h).1 with ⟨_, hv | hev⟩ | ⟨_, hsame⟩ | ⟨_, _, _, hcnt⟩
    · exact .inl hv
    · refine .inr ?_
      simpa [-not_and, not_and_or] using hev
    · exact absurd (hsame.symm.trans ht) hs
    · exact absurd ht (by bv_omega)
  case event =>
    have hnone : ¬ noEvent t.fsync := fun ⟨h1, h2, h3, h4⟩ => by simp [h1, h2, h3, h4] at hev
    rcases edge_cnt_cases (step_next h).1 with ⟨hcnt, _⟩ | ⟨hno, _⟩ | ⟨hno, _⟩
    · exact hcnt
    · exact absurd hno hnone
    · exact absurd hno hnone
  case nextByte =>
    exact edge_byteOp_of_empty hcnt hh (h.imp (exec_next rfl) (exec_next rfl))

/-! ## The transition table -/

/-- The row of EOS and ERR: HALTED from every state, with the event on entry only (40_synchronizer.md R131). -/
theorem haltLoop_transition (c : BitVec 2) {T : BitVec 16} {f : Fsync} (hf : fsyncInv T f) :
    syncState (haltLoop c (clearEvents f)) = .halted ∧ (haltLoop c (clearEvents f)).cnt = 0 ∧
    (haltLoop c (clearEvents f)).evHalt = !f.halted := by
  obtain ⟨hHalt, _⟩ := hf
  rw [syncState_halted_iff]
  rcases haltLoop_cases c (clearEvents f) with ⟨hh, e⟩ | ⟨hh, e⟩ <;> rw [e]
  · have hh : f.halted = true := hh
    exact ⟨hh, (hHalt hh).1, by rw [hh]; rfl⟩
  · have hh : f.halted = false := hh
    exact ⟨rfl, rfl, by rw [hh]; rfl⟩

theorem halted_eq_false_of_syncState_ne {f : Fsync} (h : syncState f ≠ .halted) : f.halted = false := by
  rw [Ne, syncState_halted_iff] at h
  exact Bool.eq_false_iff.mpr h

/-- The rows of the byte operations while halted. -/
theorem syncState_edge_of_halted (T : BitVec 16) {i : Instr} (hi : i ≠ .reset) {f : Fsync}
    (h : syncState f = .halted) : syncState (edge T i f) = .halted := by
  rw [edge_of_halted T hi ((syncState_halted_iff f).mp h), syncState_clearEvents, h]

section Rows
variable {T : BitVec 16} {d : Byte} {tick : Bool} {f g : Fsync}

/-- The row of BYTE. -/
theorem byte_transition (hg : g = edge T (.byte d tick) f) :
    if syncState f = .halted then syncState g = .halted
    else syncState g = .recv ∧ g.cnt.toNat = min (f.cnt.toNat + 1) 7 ∧ (syncState f = .idle → g.cnt = 1) := by
  split_ifs with hs
  · rw [hg]
    exact syncState_edge_of_halted (i := .byte d tick) T nofun hs
  · have hh := halted_eq_false_of_syncState_ne hs
    refine ⟨?_, ?_, fun hi => ?_⟩
    · rw [hg, edge_byte T d tick hh]
      exact (syncState_recv_iff _).mpr ⟨hh, rfl⟩
    · rw [hg, edge_byte T d tick hh]
      exact appendByte_clearEvents_cnt d
    · obtain ⟨_, _, hcnt⟩ := (syncState_idle_iff f).mp hi
      exact (edge_byteOp_of_empty hcnt hh (.inl hg)).2

/-- The row of BYTE_LAST. Under R47 a count of 6 or 7 is held in RECV only, so an overrun comes from there. -/
theorem byteLast_transition (hf : fsyncInv T f) (hg : g = edge T (.byteLast d tick) f) :
    if syncState f = .halted then syncState g = .halted
    else if f.cnt.toNat + 1 = 6 then syncState g = .idle ∧ g.evFrame = true
    else if 7 ≤ f.cnt.toNat + 1 then syncState f = .recv ∧ syncState g = .idle ∧ g.evOvr = true
    else syncState g = .accum ∧ g.cnt.toNat = f.cnt.toNat + 1 ∧ g.idleCnt = 0 := by
  obtain ⟨_, _, _, hClosed, _⟩ := hf
  split_ifs with hs h6 h7 <;> rw [hg]
  · exact syncState_edge_of_halted (i := .byteLast d tick) T nofun hs
  all_goals have hh := halted_eq_false_of_syncState_ne hs
  · rw [edge_byteLast_emit T d tick hh (by omega)]
    exact ⟨(syncState_idle_iff _).mpr ⟨hh, rfl, rfl⟩, rfl⟩
  · have hopen : f.chunkOpen = true := by
      by_contra hclosed
      have := hClosed (Bool.eq_false_iff.mpr hclosed) hh
      omega
    rw [edge_byteLast_overrun T d tick hh (by omega)]
    exact ⟨(syncState_recv_iff f).mpr ⟨hh, hopen⟩, (syncState_idle_iff _).mpr ⟨hh, rfl, rfl⟩, rfl⟩
  · have hn := appendByte_clearEvents_cnt d (f := f)
    rw [edge_byteLast_arm T d tick hh (by omega)]
    exact ⟨(syncState_accum_iff _).mpr ⟨hh, rfl, by bv_omega⟩, by simp only [hn]; omega, rfl⟩

/-- The row of TICK. Under R47 the timer is below T, so that idle_cnt + 1 does not wrap. -/
theorem tick_transition (hf : fsyncInv T f) (hg : g = edge T .tick f) :
    if syncState f = .accum then
      if f.idleCnt.toNat + 1 = T.toNat then syncState g = .idle ∧ g.evTmo = true
      else syncState g = .accum ∧ g.idleCnt.toNat = f.idleCnt.toNat + 1
    else syncState g = syncState f := by
  obtain ⟨_, _, _, _, ⟨hIdle, _⟩, _⟩ := hf
  split_ifs with ha hT <;> rw [hg]
  · obtain ⟨hh, hopen, _⟩ := (syncState_accum_iff f).mp ha
    rw [edge_tick_timeout T ha (by bv_omega)]
    exact ⟨(syncState_idle_iff _).mpr ⟨hh, hopen, rfl⟩, rfl⟩
  · rw [edge_tick_count T ha (by bv_omega)]
    exact ⟨ha, by bv_omega⟩
  · rw [edge_tick_of_ne_accum T ha, syncState_clearEvents]

end Rows

/-- Settles O30, one row of the table per operation. -/
theorem transitionTable : Obligations.TransitionTable := by
  intro s t ⟨_, hinv⟩ h
  obtain ⟨ht, _⟩ := step_next h
  rcases decodeCyc_cases (nextPins s).vec with hv | hv | hv | hv | hv | hv | hv <;> rw [hv] at ht ⊢
  · rw [ht]
    exact ⟨(syncState_idle_iff _).mpr ⟨rfl, rfl, rfl⟩, rfl⟩
  · rw [ht]
    exact haltLoop_transition 2 hinv
  · rw [ht]
    exact haltLoop_transition 1 hinv
  · exact byte_transition ht
  · exact byteLast_transition hinv ht
  · exact tick_transition hinv ht
  · rw [ht]
    exact syncState_clearEvents s.fsync

end Sys2Proof.Machine
end

section
/-! SUPPORT. Runs of cycles: what every run keeps, the halted machine (40_synchronizer.md R111), a stream in which
every byte closes its chunk (R128), and the accounting of bytes and frames (R129). -/

namespace Sys2Proof.Machine

/-! ## Runs -/

/-- Every run answers a next state. -/
theorem exists_runCycles (ps : List Pins) (s : State) : ∃ t, runCycles ps s = .next t :=
  ⟨_, runCycles_eq_foldl ps s⟩

/-- What every cycle of a run keeps and brings about holds after the run, when it has a cycle at all. -/
theorem runCycles_keeps {Q P : State → Prop} {ps : List Pins} {s t : State} (hne : ps ≠ [])
    (hstep : ∀ p ∈ ps, ∀ u, Q u → Q (cycle p u) ∧ P (cycle p u)) (hs : Q s) (h : runCycles ps s = .next t) :
    Q t ∧ P t := by
  induction ps generalizing s with
  | nil => exact absurd rfl hne
  | cons p ps ih =>
    have hp := hstep p (List.mem_cons_self ..) s hs
    rw [runCycles_cons] at h
    cases ps with
    | nil =>
      cases h
      exact hp
    | cons q qs => exact ih (List.cons_ne_nil _ _) (fun r hr => hstep r (List.mem_cons_of_mem _ hr)) hp.1 h

/-! ## The halted machine -/

/-- A halted machine without RESET only clears its event flags. -/
theorem runCycles_of_halted {ps : List Pins} {s t : State} (hh : s.fsync.halted = true) (hne : ps ≠ [])
    (hps : ∀ p ∈ ps, opOf p ≠ .reset) (h : runCycles ps s = .next t) : t.fsync = clearEvents s.fsync := by
  refine (runCycles_keeps (Q := fun u => clearEvents u.fsync = clearEvents s.fsync)
    (P := fun u => u.fsync = clearEvents s.fsync) hne (fun p hp u hu => ?_) rfl h).2
  have huh : u.fsync.halted = true := (congrArg Fsync.halted hu).trans hh
  have hcycle : (cycle p u).fsync = clearEvents s.fsync := (edge_of_halted _ (hps p hp) huh).trans hu
  exact ⟨by rw [hcycle]; rfl, hcycle⟩

/-- Settles O10. -/
theorem haltedIsLeftOnlyByReset : Obligations.HaltedIsLeftOnlyByReset := by
  refine fun s hh => ⟨fun ps hne hps => ?_, fun p hp => ⟨_, runCycles_singleton p s, ?_⟩⟩
  · obtain ⟨t, h⟩ := exists_runCycles ps s
    refine ⟨t, h, ?_⟩
    rw [runCycles_of_halted hh hne hps h]
    exact ⟨⟨rfl, rfl, rfl, rfl, ⟨rfl, rfl⟩, ⟨rfl, rfl, rfl⟩, ⟨rfl, rfl, rfl⟩⟩, ⟨rfl, rfl, rfl, rfl⟩⟩
  · have hreset : decodeCyc p.vec = .reset := hp
    rw [cycle_fsync, hreset]
    exact ⟨rfl, rfl⟩

/-! ## Every byte closes its chunk -/

/-- The invariants hold and no chunk is open; so at most five bytes are buffered. -/
def betweenChunks (s : State) : Prop := stateInv s ∧ s.fsync.chunkOpen = false

/-- Without BYTE no chunk is opened and the count never reaches an overrun. -/
theorem cycle_betweenChunks {p : Pins} {s : State} (hs : betweenChunks s) (hp : ∀ d tick, opOf p ≠ .byte d tick) :
    betweenChunks (cycle p s) ∧ (cycle p s).fsync.evOvr = false ∧
    (opOf p ≠ .reset → (cycle p s).fsync.overruns = s.fsync.overruns) := by
  obtain ⟨⟨hT, hinv⟩, hopen⟩ := hs
  have hinv' : stateInv (cycle p s) := ⟨hT, fsyncInv_edge p.vec (T_pos_of_wellFormed hT) hinv⟩
  obtain ⟨_, _, _, hClosed, _⟩ := hinv
  have hopen' : (cycle p s).fsync.chunkOpen = false := Bool.eq_false_iff.mpr fun h => by
    rcases edge_chunkOpen (cycle_fsync p s) h with h | h
    · exact absurd (hopen.symm.trans h) nofun
    · exact hp _ _ h
  have hovr : (cycle p s).fsync.evOvr = false := Bool.eq_false_iff.mpr fun h => by
    obtain ⟨_, hh, hcnt⟩ := edge_evOvr (cycle_fsync p s) h
    have := hClosed hopen hh
    omega
  refine ⟨⟨hinv', hopen'⟩, hovr, fun hreset => ?_⟩
  obtain ⟨_, hoverruns, _⟩ := edge_counters (cycle_fsync p s) hreset
  rw [hoverruns, hovr]
  simp

/-- Settles O46: between chunks after every cycle (`cycle_betweenChunks`). -/
theorem perByteStreamNeverOverruns : Obligations.PerByteStreamNeverOverruns := by
  intro ps s t hne hs hopen hps h
  obtain ⟨⟨⟨_, hopen'⟩, hoverruns⟩, hovr⟩ := runCycles_keeps
    (Q := fun u => betweenChunks u ∧ ((∀ p ∈ ps, opOf p ≠ .reset) → u.fsync.overruns = s.fsync.overruns))
    (P := fun u => u.fsync.evOvr = false) hne
    (fun p hp u ⟨hu, hsame⟩ =>
      have ⟨hu', hovr, hkeep⟩ := cycle_betweenChunks hu (hps p hp)
      ⟨⟨hu', fun hreset => (hkeep (hreset p hp)).trans (hsame hreset)⟩, hovr⟩)
    ⟨⟨hs, hopen⟩, fun _ => rfl⟩ h
  exact ⟨hovr, hopen', hoverruns⟩

/-! ## Accounting -/

theorem emissions_cons (p : Pins) (ps : List Pins) (s : State) :
    emissions (p :: ps) s = (if (cycle p s).fsync.evFrame then 1 else 0) + emissions ps (cycle p s) := by
  simp only [emissions, runCycles_singleton]

theorem acceptedBytes_cons (p : Pins) (ps : List Pins) (s : State) :
    acceptedBytes (p :: ps) s =
      (if isByteOp (opOf p) && !s.fsync.halted then 1 else 0) + acceptedBytes ps (cycle p s) := by
  simp only [acceptedBytes, runCycles_singleton]

/-- One edge: six bytes leave the buffer with a frame, and no byte enters it but an accepted one. -/
theorem edge_accounting {T : BitVec 16} {v : CycVector} {f g : Fsync} (hg : g = edge T (decodeCyc v) f) :
    6 * (if g.evFrame then 1 else 0) + g.cnt.toNat ≤
      f.cnt.toNat + (if isByteOp (decodeCyc v) && !f.halted then 1 else 0) := by
  cases hev : g.evFrame
  case true =>
    obtain ⟨hv, hh, hcnt⟩ := edge_evFrame hg hev
    have hnone : ¬ noEvent g := fun ⟨h, _⟩ => absurd (hev.symm.trans h) nofun
    rcases edge_cnt_cases hg with ⟨hzero, _⟩ | ⟨hno, _⟩ | ⟨hno, _⟩
    · simp [hv, isByteOp, hh, hcnt, hzero]
    · exact absurd hno hnone
    · exact absurd hno hnone
  case false =>
    rcases edge_cnt_cases hg with ⟨hzero, _⟩ | ⟨_, hsame⟩ | ⟨_, hbyte, hh, hcnt⟩
    · simp [hzero]
    · simp [hsame]
    · simp [hbyte, hh, hcnt]

/-- Settles O49, by induction on the cycles: `edge_accounting` and `edge_counters` are the step. -/
theorem everyFrameUsesSixBytes : Obligations.EveryFrameUsesSixBytes := by
  intro ps s t h
  induction ps generalizing s with
  | nil =>
    cases h
    simp [emissions, acceptedBytes]
  | cons p ps ih =>
    rw [runCycles_cons] at h
    obtain ⟨hbytes, hframes⟩ := ih (cycle p s) h
    rw [emissions_cons, acceptedBytes_cons]
    refine ⟨?_, fun hps => ?_⟩
    · have hstep : _ ≤ _ + (if isByteOp (opOf p) && !s.fsync.halted then 1 else 0) :=
        edge_accounting (cycle_fsync p s)
      omega
    · obtain ⟨hstep, _⟩ := edge_counters (cycle_fsync p s) (hps p (List.mem_cons_self ..))
      rw [hframes fun q hq => hps q (List.mem_cons_of_mem _ hq), hstep, BitVec.ofNat_add, BitVec.add_assoc]
      split_ifs <;> rfl

end Sys2Proof.Machine
end

section
/-! SUPPORT. The bytes of one buffer generation: quiet cycles keep them until the T-th tick (40_synchronizer.md R116,
R127), bytes are put behind them in order (R112), and the sixth one closing its chunk emits them (R121), however they
were split. -/

namespace Sys2Proof.Machine

/-! ## Quiet cycles -/

/-- FSYNC without its timer and its event flags, the fields a quiet cycle may change short of a timeout. -/
def forgetTimer (f : Fsync) : Fsync := { clearEvents f with idleCnt := 0 }

/-- All that equality up to the timer says. -/
theorem same_of_forgetTimer_eq {f g : Fsync} (h : forgetTimer g = forgetTimer f) :
    syncState g = syncState f ∧ g.buf = f.buf ∧ g.cnt = f.cnt ∧ sameHalt f g ∧ sameRecord f g ∧ sameCounters f g := by
  have field {α : Type} (π : Fsync → α) : π (forgetTimer g) = π (forgetTimer f) := congrArg π h
  exact ⟨field syncState, field Fsync.buf, field Fsync.cnt, ⟨field Fsync.halted, field Fsync.haltCause⟩,
    ⟨field Fsync.frame, field Fsync.valid, field Fsync.status⟩,
    ⟨field Fsync.frames, field Fsync.overruns, field Fsync.timeouts⟩⟩

/-- A tick or a NOP with the timer short of T - 1 changes the timer only, and that by the tick in ACCUM. -/
theorem edge_quiet {T : BitVec 16} {i : Instr} {f g : Fsync} (hg : g = edge T i f) (hi : isQuiet i = true)
    (hT : f.idleCnt.toNat + (if i = .tick then 1 else 0) < T.toNat) :
    forgetTimer g = forgetTimer f ∧ g.idleCnt.toNat ≤ f.idleCnt.toNat + (if i = .tick then 1 else 0) ∧
    (syncState f = .accum → g.idleCnt.toNat = f.idleCnt.toNat + (if i = .tick then 1 else 0)) := by
  cases i with
  | nop =>
    subst hg
    exact ⟨rfl, le_rfl, fun _ => rfl⟩
  | tick =>
    rw [if_pos rfl] at hT ⊢
    by_cases ha : syncState f = .accum
    · have hnext : (f.idleCnt + 1).toNat = f.idleCnt.toNat + 1 := by bv_omega
      rw [hg, edge_tick_count T ha (by bv_omega)]
      exact ⟨rfl, hnext.le, fun _ => hnext⟩
    · rw [hg, edge_tick_of_ne_accum T ha]
      exact ⟨rfl, Nat.le_succ _, fun ha' => absurd ha' ha⟩
  | _ => cases hi

theorem tickCount_cons (p : Pins) (ps : List Pins) :
    tickCount (p :: ps) = (if opOf p = .tick then 1 else 0) + tickCount ps := by
  simp only [tickCount, List.countP_cons, beq_iff_eq]
  omega

/-- Quiet cycles short of a timeout change the timer only, and that by their ticks in ACCUM (R116, R127). -/
theorem runCycles_quiet {ps : List Pins} {s t : State} (hq : ∀ p ∈ ps, isQuiet (opOf p) = true)
    (hT : s.fsync.idleCnt.toNat + tickCount ps < s.params.T.toNat) (h : runCycles ps s = .next t) :
    forgetTimer t.fsync = forgetTimer s.fsync ∧
    (syncState s.fsync = .accum → t.fsync.idleCnt.toNat = s.fsync.idleCnt.toNat + tickCount ps) := by
  induction ps generalizing s with
  | nil =>
    cases h
    exact ⟨rfl, fun _ => rfl⟩
  | cons p ps ih =>
    rw [runCycles_cons] at h
    rw [tickCount_cons] at hT ⊢
    obtain ⟨hkeep, hle, hcount⟩ := edge_quiet (i := opOf p) (cycle_fsync p s) (hq p (List.mem_cons_self ..)) (by omega)
    obtain ⟨hkeep', hcount'⟩ :=
      ih (fun q hq' => hq q (List.mem_cons_of_mem _ hq')) (by rw [cycle_params]; omega) h
    refine ⟨hkeep'.trans hkeep, fun ha => ?_⟩
    have ha' : syncState (cycle p s).fsync = .accum := (same_of_forgetTimer_eq hkeep).1.trans ha
    rw [hcount' ha', hcount ha]
    omega

theorem runCycles_params {ps : List Pins} {s t : State} (h : runCycles ps s = .next t) : t.params = s.params := by
  induction ps generalizing s with
  | nil => cases h; rfl
  | cons p ps ih =>
    rw [runCycles_cons] at h
    exact (ih h).trans (cycle_params p s)

/-- Settles O45: `runCycles_quiet` from the timer at 0, then the rule of the tick that expires. -/
theorem resyncAfterTTicks : Obligations.ResyncAfterTTicks := by
  intro ps s ha hidle hq
  obtain ⟨t, h⟩ := exists_runCycles ps s
  have hzero : s.fsync.idleCnt.toNat = 0 := by rw [hidle]; rfl
  have hrun (hT : tickCount ps < s.params.T.toNat) := runCycles_quiet hq (by omega) h
  refine ⟨fun hT => ⟨t, h, ?kept⟩, fun p hp hT => ⟨cycle p t, ?run, ?expired⟩⟩
  case kept =>
    obtain ⟨hkeep, hcount⟩ := hrun hT
    obtain ⟨hsync, hbuf, hcnt, _, hrecord, hcounters⟩ := same_of_forgetTimer_eq hkeep
    exact ⟨hsync.trans ha, hbuf, hcnt, (hcount ha).trans (by rw [hzero, Nat.zero_add]), hrecord, hcounters⟩
  case run => rw [runCycles_append h, runCycles_singleton]
  case expired =>
    obtain ⟨hkeep, hcount⟩ := hrun (by omega)
    obtain ⟨hsync, _, _, _, hrecord, hframes, hoverruns, htimeouts⟩ := same_of_forgetTimer_eq hkeep
    have ha' := hsync.trans ha
    have hlast : t.fsync.idleCnt + 1 = t.params.T := by
      have := hcount ha
      rw [runCycles_params h]
      bv_omega
    have htick : decodeCyc p.vec = .tick := hp
    obtain ⟨hh, hopen, _⟩ := (syncState_accum_iff _).mp ha'
    rw [cycle_fsync, htick, edge_tick_timeout _ ha' hlast]
    exact ⟨(syncState_idle_iff _).mpr ⟨hh, hopen, rfl⟩, rfl, rfl, congrArg (· + 1) htimeouts, hrecord, hframes,
      hoverruns⟩

/-! ## The bytes of a generation -/

/-- Byte `k` of the generation that `f₀` holds followed by the bytes `bs`. -/
def generationByte (f₀ : Fsync) (bs : List Byte) (k : Fin 6) : Option Byte :=
  if k.val < f₀.cnt.toNat then some f₀.buf[k] else bs[k.val - f₀.cnt.toNat]?

theorem generationByte_concat_of_lt {f₀ : Fsync} {bs : List Byte} {k : Fin 6} (d : Byte)
    (hk : k.val < f₀.cnt.toNat + bs.length) : generationByte f₀ (bs ++ [d]) k = generationByte f₀ bs k := by
  unfold generationByte
  split_ifs with hold
  · rfl
  · exact List.getElem?_append_left (by omega)

theorem generationByte_concat_of_eq {f₀ : Fsync} {bs : List Byte} {k : Fin 6} (d : Byte)
    (hk : k.val = f₀.cnt.toNat + bs.length) : generationByte f₀ (bs ++ [d]) k = some d := by
  unfold generationByte
  rw [if_neg (by omega), hk, Nat.add_sub_cancel_left, List.getElem?_concat_length]

/-- `f` came from `f₀` by accepting the bytes `bs` and nothing else that lasts: they stand in the buffer behind the
bytes counted before, and the halt fields, the record and the counters are as they were. -/
structure Collected (f₀ : Fsync) (bs : List Byte) (f : Fsync) : Prop where
  cnt : f.cnt.toNat = min (f₀.cnt.toNat + bs.length) 7
  bytes : ∀ k : Fin 6, k.val < f₀.cnt.toNat + bs.length → some f.buf[k] = generationByte f₀ bs k
  halt : sameHalt f₀ f
  record : sameRecord f₀ f
  counters : sameCounters f₀ f

theorem Collected.nil (f : Fsync) : Collected f [] f where
  cnt := by have := f.cnt.isLt; simp; omega
  bytes k hk := by simp only [generationByte, if_pos (show k.val < f.cnt.toNat from hk)]
  halt := ⟨rfl, rfl⟩
  record := ⟨rfl, rfl, rfl⟩
  counters := ⟨rfl, rfl, rfl⟩

section Collect
variable {f₀ f g : Fsync} {bs : List Byte}

theorem Collected.not_halted (h : Collected f₀ bs f) (hh : f₀.halted = false) : f.halted = false :=
  h.halt.1.trans hh

/-- What quiet cycles leave is all that `Collected` speaks of. -/
theorem Collected.of_forgetTimer_eq (h : Collected f₀ bs f) (hg : forgetTimer g = forgetTimer f) :
    Collected f₀ bs g := by
  have hforget : Collected f₀ bs (forgetTimer g) := by
    rw [hg]
    exact ⟨h.cnt, h.bytes, h.halt, h.record, h.counters⟩
  exact ⟨hforget.cnt, hforget.bytes, hforget.halt, hforget.record, hforget.counters⟩

/-- A buffer with the byte put at index cnt holds it behind the others (40_synchronizer.md R112). -/
theorem Collected.bytes_concat (h : Collected f₀ bs f) {d : Byte}
    (hg : ∀ j : Fin 6, g.buf[j] = if j.val = f.cnt.toNat then d else f.buf[j]) (k : Fin 6)
    (hk : k.val < f₀.cnt.toNat + (bs ++ [d]).length) : some g.buf[k] = generationByte f₀ (bs ++ [d]) k := by
  have hcnt := h.cnt
  rw [List.length_append, List.length_singleton] at hk
  rw [hg]
  split_ifs with hlast
  · rw [generationByte_concat_of_eq d (by omega)]
  · rw [generationByte_concat_of_lt d (by omega), h.bytes k (by omega)]

/-- Append collects its byte, whatever becomes of the chunk. -/
theorem Collected.append (h : Collected f₀ bs f) (d : Byte) (chunkOpen : Bool) :
    Collected f₀ (bs ++ [d]) { appendByte d (clearEvents f) with chunkOpen := chunkOpen } where
  cnt := by
    have hcnt := h.cnt
    simp only [appendByte_clearEvents_cnt, List.length_append, List.length_singleton]
    omega
  bytes := h.bytes_concat (appendByte_buf d (clearEvents f))
  halt := h.halt
  record := h.record
  counters := h.counters

/-- BYTE collects its byte (40_synchronizer.md R114). -/
theorem Collected.byte (h : Collected f₀ bs f) (hh : f₀.halted = false) (T : BitVec 16) (d : Byte) (tick : Bool) :
    Collected f₀ (bs ++ [d]) (edge T (.byte d tick) f) := by
  rw [edge_byte T d tick (h.not_halted hh)]
  exact h.append d true

/-- BYTE_LAST collects its byte when it is one of the first five (40_synchronizer.md R123). -/
theorem Collected.byteLast (h : Collected f₀ bs f) (hh : f₀.halted = false) (T : BitVec 16) (d : Byte) (tick : Bool)
    (hroom : f₀.cnt.toNat + bs.length ≤ 4) : Collected f₀ (bs ++ [d]) (edge T (.byteLast d tick) f) := by
  have hcnt := h.cnt
  rw [edge_byteLast_arm T d tick (h.not_halted hh) (by omega)]
  exact h.append d false

/-- The sixth byte, closing its chunk, emits the generation (40_synchronizer.md R121). -/
theorem Collected.emit (h : Collected f₀ bs f) (hh : f₀.halted = false) {T : BitVec 16} {d : Byte} {tick : Bool}
    (hg : g = edge T (.byteLast d tick) f) (hfive : f₀.cnt.toNat + bs.length = 5) :
    g.cnt = 0 ∧ g.evFrame = true ∧ g.evOvr = false ∧ g.frames = f₀.frames + 1 ∧ g.overruns = f₀.overruns ∧
    g.valid = true ∧ g.status = extract g.frame ||| 0x80000000 ∧
    ∀ k : Fin 6, some (frameByte g.frame k) = generationByte f₀ (bs ++ [d]) k := by
  have hcnt := h.cnt
  obtain ⟨hframes, hoverruns, _⟩ := h.counters
  have hbytes := h.bytes_concat (appendByte_buf d (clearEvents f))
  rw [hg, edge_byteLast_emit T d tick (h.not_halted hh) (by omega)]
  refine ⟨rfl, rfl, rfl, congrArg (· + 1) hframes, hoverruns, rfl, statusFor_true _, fun k => ?_⟩
  rw [frameByte_bufferFrame]
  exact hbytes k (by simp; omega)

end Collect

/-! ## A whole chunk -/

/-- BYTE cycles collect their bytes. -/
theorem Collected.runCycles_byteLines {f₀ : Fsync} (hh : f₀.halted = false) (a : RdAddr) {bs cs : List Byte}
    {s t : State} (hs : Collected f₀ bs s.fsync)
    (h : runCycles ((cs.map TraceLine.byte).map (linePins a)) s = .next t) : Collected f₀ (bs ++ cs) t.fsync := by
  induction cs generalizing bs s with
  | nil =>
    cases h
    rwa [List.append_nil]
  | cons c cs ih =>
    rw [List.map_cons, List.map_cons, runCycles_cons] at h
    have hop : decodeCyc (linePins a (.byte c)).vec = .byte c false := decodeCyc_lineVector (.byte c)
    have hc : Collected f₀ (bs ++ [c]) (cycle (linePins a (.byte c)) s).fsync := by
      rw [cycle_fsync, hop]
      exact hs.byte hh _ c false
    rw [List.append_cons]
    exact ih hc h

/-- Settles O43: the chunk's bytes but the last are collected, and the last one's edge goes by the count of all. -/
theorem chunkOutcome : Obligations.ChunkOutcome := by
  intro bs a s hne hh
  obtain rfl | ⟨cs, c, rfl⟩ := List.eq_nil_or_concat' bs
  · exact absurd rfl hne
  obtain ⟨u, hu⟩ := exists_runCycles ((cs.map TraceLine.byte).map (linePins a)) s
  have hcol : Collected s.fsync cs u.fsync := Collected.runCycles_byteLines hh a (.nil s.fsync) hu
  have huh := hcol.not_halted hh
  have hcnt := hcol.cnt
  have hrun : runCycles ((expand (.chunk (cs ++ [c]))).map (linePins a)) s =
      .next (cycle (linePins a (.byteL c)) u) := by
    rw [expand, chunkLines_concat, List.map_append, runCycles_append hu]
    exact runCycles_singleton _ u
  have hop : decodeCyc (linePins a (.byteL c)).vec = .byteLast c false := decodeCyc_lineVector (.byteL c)
  have hg : (cycle (linePins a (.byteL c)) u).fsync = edge u.params.T (.byteLast c false) u.fsync := by
    rw [cycle_fsync, hop]
  obtain ⟨hbuf, hopen, hidle, ⟨hhalted, hcause⟩, htmo, hhaltEv, htimeouts⟩ := edge_byteLast_closes _ c false hg huh
  obtain ⟨hframes, hoverruns, htimeouts₀⟩ := hcol.counters
  have hlen : (cs ++ [c]).length = cs.length + 1 := by simp
  refine ⟨_, hrun, hopen, hidle, ⟨hhalted.trans hcol.halt.1, hcause.trans hcol.halt.2⟩, htmo, hhaltEv,
    htimeouts.trans htimeouts₀, fun hN => ?emit, fun hN => ?overrun, fun hN => ?arm⟩
  case emit => exact hcol.emit hh hg (by omega)
  case overrun =>
    rw [hg, edge_byteLast_overrun _ c false huh (by omega)]
    exact ⟨rfl, rfl, rfl, hcol.record, hframes, congrArg (· + 1) hoverruns⟩
  case arm =>
    have hlast := hcol.byteLast hh u.params.T c false (by omega)
    have hlastCnt := hlast.cnt
    rw [hg]
    refine ⟨by omega, (syncState_accum_iff _).mpr ⟨hlast.not_halted hh, hg ▸ hopen, by bv_omega⟩, ?_, hlast.record,
      hlast.counters, hlast.bytes⟩
    rw [edge_byteLast_arm _ c false huh (by omega)]
    exact ⟨rfl, rfl, rfl, rfl⟩

/-! ## Six bytes, split anywhere -/

/-- The emissions of two runs, one after the other. -/
theorem emissions_append {ps : List Pins} {s u : State} (h : runCycles ps s = .next u) (qs : List Pins) :
    emissions (ps ++ qs) s = emissions ps s + emissions qs u := by
  induction ps generalizing s with
  | nil =>
    cases h
    exact (Nat.zero_add _).symm
  | cons p ps ih =>
    rw [runCycles_cons] at h
    rw [List.cons_append, emissions_cons, emissions_cons, ih h, Nat.add_assoc]

/-- Ticks and NOPs emit nothing: an emission needs BYTE_LAST. -/
theorem emissions_of_quiet {ps : List Pins} {s : State} (hq : ∀ p ∈ ps, isQuiet (opOf p) = true) :
    emissions ps s = 0 := by
  induction ps generalizing s with
  | nil => rfl
  | cons p ps ih =>
    have hev : ¬ (cycle p s).fsync.evFrame = true := fun hev => by
      have hquiet : isQuiet (decodeCyc p.vec) = true := hq p (List.mem_cons_self ..)
      obtain ⟨hv, _⟩ := edge_evFrame (cycle_fsync p s) hev
      rw [hv] at hquiet
      cases hquiet
    rw [emissions_cons, if_neg hev, ih fun q hq' => hq q (List.mem_cons_of_mem _ hq')]

/-- What a delivery presents after its byte does not reach the T-th tick. -/
def Delivery.quietGap (T : BitVec 16) (d : Delivery) : Prop :=
  (∀ p ∈ d.gap, isQuiet (opOf p) = true) ∧ tickCount d.gap < T.toNat

theorem decodeCyc_bytePins (last : Bool) (b : Byte) (a : RdAddr) :
    decodeCyc (bytePins last b a).vec = if last then .byteLast b false else .byte b false :=
  decodeCyc_byteVector last false b

section Deliveries
variable {f₀ : Fsync} {bs : List Byte} {s t : State}

/-- The cycle of one of the first five bytes collects it and re-arms the timer, whether or not it closes its chunk. -/
theorem Collected.cycle_bytePins (hs : Collected f₀ bs s.fsync) (hh : f₀.halted = false) (last : Bool) (b : Byte)
    (a : RdAddr) (hroom : f₀.cnt.toNat + bs.length ≤ 4) :
    Collected f₀ (bs ++ [b]) (cycle (bytePins last b a) s).fsync ∧
    (cycle (bytePins last b a) s).fsync.idleCnt = 0 ∧ ¬ (cycle (bytePins last b a) s).fsync.evFrame = true := by
  have hcnt := hs.cnt
  have hop := decodeCyc_bytePins last b a
  refine ⟨?_, ?_, fun hev => ?_⟩
  · rw [cycle_fsync, hop]
    cases last
    · exact hs.byte hh _ b false
    · exact hs.byteLast hh _ b false hroom
  · have hbyte : isByteOp (decodeCyc (bytePins last b a).vec) = true := by rw [hop]; cases last <;> rfl
    obtain ⟨_, _, hidle⟩ := edge_byteOp_timer (cycle_fsync (bytePins last b a) s) hbyte
    exact hidle (hs.not_halted hh)
  · obtain ⟨_, _, hfive⟩ := edge_evFrame (cycle_fsync (bytePins last b a) s) hev
    omega

/-- One of the first five deliveries collects its byte and emits nothing. -/
theorem Collected.delivery (hs : Collected f₀ bs s.fsync) (hh : f₀.halted = false) {d : Delivery}
    (hgap : d.quietGap s.params.T) (hroom : f₀.cnt.toNat + bs.length ≤ 4) (h : runCycles d.cycles s = .next t) :
    Collected f₀ (bs ++ [d.byte]) t.fsync ∧ emissions d.cycles s = 0 := by
  obtain ⟨hquiet, hticks⟩ := hgap
  obtain ⟨hbyte, hidle, hev⟩ := hs.cycle_bytePins hh d.last d.byte d.rdAddr hroom
  rw [Delivery.cycles, runCycles_cons] at h
  obtain ⟨hkeep, _⟩ := runCycles_quiet hquiet (by rw [hidle, cycle_params]; simpa using hticks) h
  refine ⟨hbyte.of_forgetTimer_eq hkeep, ?_⟩
  rw [Delivery.cycles, emissions_cons, if_neg hev, emissions_of_quiet hquiet]

/-- The first deliveries, up to five bytes, collect their bytes and emit nothing. -/
theorem Collected.deliveries (hs : Collected f₀ bs s.fsync) (hh : f₀.halted = false) {ds : List Delivery}
    (hgaps : ∀ d ∈ ds, d.quietGap s.params.T) (hroom : f₀.cnt.toNat + bs.length + ds.length ≤ 5)
    (h : runCycles (ds.flatMap Delivery.cycles) s = .next t) :
    Collected f₀ (bs ++ ds.map Delivery.byte) t.fsync ∧ emissions (ds.flatMap Delivery.cycles) s = 0 := by
  induction ds generalizing bs s with
  | nil =>
    cases h
    exact ⟨by rwa [List.map_nil, List.append_nil], rfl⟩
  | cons d ds ih =>
    rw [List.length_cons] at hroom
    obtain ⟨u, hu⟩ := exists_runCycles d.cycles s
    obtain ⟨hd, hzero⟩ := hs.delivery hh (hgaps d (List.mem_cons_self ..)) (by omega) hu
    rw [List.flatMap_cons, runCycles_append hu] at h
    have hgaps' : ∀ e ∈ ds, e.quietGap u.params.T := fun e he => by
      rw [runCycles_params hu]
      exact hgaps e (List.mem_cons_of_mem _ he)
    obtain ⟨hds, hzero'⟩ := ih hd hgaps' (by simp; omega) h
    rw [List.flatMap_cons, emissions_append hu, hzero, hzero', List.map_cons, List.append_cons]
    exact ⟨hds, rfl⟩

end Deliveries

/-- Settles O44: five deliveries are collected (`Collected.deliveries`) and the sixth emits (`Collected.emit`). -/
theorem anySplitOfSixBytesIsOneFrame : Obligations.AnySplitOfSixBytesIsOneFrame := by
  intro ds s hlen hidle hgaps hfinal
  obtain rfl | ⟨init, e, rfl⟩ := List.eq_nil_or_concat' ds
  · cases hlen
  have hinit : init.length = 5 := by simpa using hlen
  obtain ⟨hlast, hnogap⟩ := hfinal e (by rw [← hinit, List.getElem?_concat_length])
  obtain ⟨hh, _, hcnt⟩ := (syncState_idle_iff _).mp hidle
  have hzero : s.fsync.cnt.toNat = 0 := by rw [hcnt]; rfl
  obtain ⟨u, hu⟩ := exists_runCycles (init.flatMap Delivery.cycles) s
  obtain ⟨hcol, hnone⟩ := (Collected.nil s.fsync).deliveries hh (fun d hd => hgaps d (List.mem_append_left _ hd))
    (by simp; omega) hu
  rw [List.nil_append] at hcol
  have hcycles : (init ++ [e]).flatMap Delivery.cycles =
      init.flatMap Delivery.cycles ++ [bytePins true e.byte e.rdAddr] := by
    rw [List.flatMap_append, List.flatMap_singleton, Delivery.cycles, hlast, hnogap]
  have hop : decodeCyc (bytePins true e.byte e.rdAddr).vec = .byteLast e.byte false := decodeCyc_bytePins ..
  have hg : (cycle (bytePins true e.byte e.rdAddr) u).fsync = edge u.params.T (.byteLast e.byte false) u.fsync := by
    rw [cycle_fsync, hop]
  obtain ⟨hcnt', hev, _, hframes, hoverruns, _, hstatus, hbytes⟩ := hcol.emit hh hg (by simp; omega)
  obtain ⟨_, _, _, _, _, _, htimeouts⟩ := edge_byteLast_closes _ e.byte false hg (hcol.not_halted hh)
  obtain ⟨_, _, htimeouts₀⟩ := hcol.counters
  refine ⟨?emissions, _, ?run, hev, hcnt', hframes, hoverruns, htimeouts.trans htimeouts₀, hstatus, fun k => ?frame⟩
  case emissions => rw [hcycles, emissions_append hu, hnone, emissions_cons, if_pos hev]; rfl
  case run => rw [hcycles, runCycles_append hu, runCycles_singleton]
  case frame =>
    rw [hbytes k, generationByte, if_neg (by omega), hzero, List.map_append]
    rfl

end Sys2Proof.Machine
end

section
/-! SUPPORT. The status decoder (41_status_decoder.md R151 to R163): where each field of Extract comes from, that no
other frame bit has a part in it, and the ClimateStatus record the STATUS word holds. -/

namespace Sys2Proof.Machine

/-! ## The fan speed -/

theorem fanSpeed_of_seven {f : FrameWord} (h : (frameByte f 2).extractLsb' 4 3 = 7) : fanSpeed f = 0 := by
  simp [fanSpeed, h]

theorem fanSpeed_of_ne_seven {f : FrameWord} (h : (frameByte f 2).extractLsb' 4 3 ≠ 7) :
    fanSpeed f = (frameByte f 2).extractLsb' 4 3 :=
  if_neg h

theorem fanSpeed_le_six (f : FrameWord) : (fanSpeed f).toNat ≤ 6 := by
  by_cases h : (frameByte f 2).extractLsb' 4 3 = 7
  · simp [fanSpeed_of_seven h]
  · rw [fanSpeed_of_ne_seven h]
    bv_omega

/-! ## The layout of Extract -/

/-- The parts of several bits: skip the parts below, cut off the parts above. -/
theorem extract_parts (f : FrameWord) :
    (extract f).extractLsb' 0 4 = (frameByte f 3).extractLsb' 0 4 ∧
    (extract f).extractLsb' 4 4 = (frameByte f 2).extractLsb' 0 4 ∧
    (extract f).extractLsb' 8 4 = (frameByte f 1).extractLsb' 0 4 ∧
    (extract f).extractLsb' 12 3 = fanSpeed f ∧
    (extract f).extractLsb' 16 2 = (frameByte f 4).extractLsb' 0 2 := by
  refine ⟨?tempN3, ?tempN2, ?tempN1, ?fan, ?airflow⟩ <;>
    simp (disch := omega) only [extract, BitVec.extractLsb'_append_eq_of_le, BitVec.extractLsb'_append_eq_of_add_le,
      Nat.reduceSub, BitVec.extractLsb'_eq_self]

/-- The parts of one bit. -/
theorem extract_flags (f : FrameWord) :
    (extract f).getLsbD 18 = (frameByte f 3).getLsbD 6 ∧ (extract f).getLsbD 19 = (frameByte f 3).getLsbD 5 ∧
    (extract f).getLsbD 20 = (frameByte f 4).getLsbD 6 ∧ (extract f).getLsbD 21 = (frameByte f 4).getLsbD 5 ∧
    (extract f).getLsbD 22 = (frameByte f 4).getLsbD 3 := by
  refine ⟨?manual, ?acOff, ?fdefOff, ?rdefOff, ?recirc⟩ <;> simp only [extract, BitVec.getLsbD_append] <;> simp

/-- Settles O39: the layout of Extract, with the two arms of the clamp. -/
theorem extractDecodesEveryField : Obligations.ExtractDecodesEveryField := by
  intro f
  obtain ⟨htempN3, htempN2, htempN1, hfan, hairflow⟩ := extract_parts f
  obtain ⟨hmanual, hacOff, hfdefOff, hrdefOff, hrecirc⟩ := extract_flags f
  rw [hfan]
  exact ⟨hmanual, hairflow, hacOff, hfdefOff, hrdefOff, hrecirc, htempN1, htempN2, htempN3, fanSpeed_of_ne_seven,
    fanSpeed_of_seven, fanSpeed_le_six f⟩

/-! ## The bits Extract reads and sets -/

theorem frameByte_and (f m : FrameWord) (k : Nat) : frameByte (f &&& m) k = frameByte f k &&& frameByte m k :=
  BitVec.extractLsb'_and

/-- Masking a frame keeps a part of a byte that lies within the mask. -/
theorem frameByte_and_extractLsb' {m : FrameWord} {k lo len : Nat}
    (h : (frameByte m k).extractLsb' lo len = BitVec.allOnes len) (f : FrameWord) :
    (frameByte (f &&& m) k).extractLsb' lo len = (frameByte f k).extractLsb' lo len := by
  rw [frameByte_and, BitVec.extractLsb'_and, h, BitVec.and_allOnes]

/-- Masking a frame keeps a bit of a byte that lies within the mask. -/
theorem frameByte_and_getLsbD {m : FrameWord} {k i : Nat} (h : (frameByte m k).getLsbD i = true) (f : FrameWord) :
    (frameByte (f &&& m) k).getLsbD i = (frameByte f k).getLsbD i := by
  rw [frameByte_and, BitVec.getLsbD_and, h, Bool.and_true]

/-- Every frame bit that Extract reads lies within the mask of R162. -/
theorem extract_and_fieldMask (f : FrameWord) : extract (f &&& 0x006B6F7F0F00) = extract f := by
  simp (disch := decide) only [extract, fanSpeed, frameByte_and_extractLsb', frameByte_and_getLsbD]

/-- The reserved bits of Extract, 31:23 and 15 (41_status_decoder.md R161). -/
theorem extract_reserved (f : FrameWord) {i : Nat} (hi : i < 32) (h : i = 15 ∨ 23 ≤ i) :
    (extract f).getLsbD i = false := by
  simp only [extract, BitVec.getLsbD_append]
  rcases h with rfl | h
  · simp
  · interval_cases i <;> simp

/-- Settles O40: Extract of a frame is Extract of its field bits alone (`extract_and_fieldMask`), and the word mask has
reserved bits only. -/
theorem extractIgnoresUnassignedBits : Obligations.ExtractIgnoresUnassignedBits := by
  refine ⟨fun f g h => ?_, fun f => BitVec.eq_of_getLsbD_eq fun i hi => ?_⟩
  · calc extract f = extract (f &&& 0x006B6F7F0F00) := (extract_and_fieldMask f).symm
      _ = extract (g &&& 0x006B6F7F0F00) := by rw [h]
      _ = extract g := extract_and_fieldMask g
  · have hmask : ∀ j < 32, (0xFF808000 : Word).getLsbD j = true → j = 15 ∨ 23 ≤ j := by decide
    rw [BitVec.getLsbD_and]
    cases hset : (0xFF808000 : Word).getLsbD i
    · simp
    · simp [extract_reserved f hi (hmask i hi hset)]

/-! ## The ClimateStatus record -/

theorem onOffOf_eq_off_iff (off : Bool) : onOffOf off = .off ↔ off = true := by
  cases off <;> decide

/-- The four airflow values and their names (41_status_decoder.md R152). -/
theorem airflowOf_eq_iff (raw : BitVec 2) :
    (airflowOf raw = .feet ↔ raw = 0) ∧ (airflowOf raw = .face ↔ raw = 1) ∧
    (airflowOf raw = .feetDefrost ↔ raw = 2) ∧ (airflowOf raw = .faceFeet ↔ raw = 3) := by
  revert raw
  decide

theorem climateOf_eq_none_iff (w : Word) : climateOf w = none ↔ w.getLsbD 31 = false := by
  simp only [climateOf, ite_eq_right_iff, reduceCtorEq, imp_false, Bool.not_eq_true]

/-- The fields of the record a STATUS word holds, from the bits of the word (41_status_decoder.md R163). -/
theorem climateOf_fields {w : Word} {c : ClimateStatus} (h : climateOf w = some c) :
    (c.mode = .manual ↔ w.getLsbD 18 = true) ∧
    (c.airflowPosition = .feet ↔ w.extractLsb' 16 2 = 0) ∧ (c.airflowPosition = .face ↔ w.extractLsb' 16 2 = 1) ∧
    (c.airflowPosition = .feetDefrost ↔ w.extractLsb' 16 2 = 2) ∧
    (c.airflowPosition = .faceFeet ↔ w.extractLsb' 16 2 = 3) ∧
    (c.acState = .off ↔ w.getLsbD 19 = true) ∧ (c.frontDefrostState = .off ↔ w.getLsbD 20 = true) ∧
    (c.rearDefrostState = .off ↔ w.getLsbD 21 = true) ∧ (c.airSource = .recirculate ↔ w.getLsbD 22 = true) ∧
    c.temperature = (w.extractLsb' 8 4, w.extractLsb' 4 4, w.extractLsb' 0 4) ∧
    c.fanSpeed = w.extractLsb' 12 3 := by
  unfold climateOf at h
  split at h
  · cases h
    obtain ⟨hfeet, hface, hfeetDefrost, hfaceFeet⟩ := airflowOf_eq_iff (w.extractLsb' 16 2)
    exact ⟨by simp, hfeet, hface, hfeetDefrost, hfaceFeet, onOffOf_eq_off_iff _, onOffOf_eq_off_iff _,
      onOffOf_eq_off_iff _, by simp, rfl, rfl⟩
  · cases h

/-! The STATUS word of a frame: VALID on top of the 31 bits of Extract. -/

theorem statusFor_valid (valid : Bool) (f : FrameWord) : (statusFor valid f).getLsbD 31 = valid := by
  rw [statusFor, BitVec.getLsbD_append]
  simp

theorem statusFor_getLsbD {i : Nat} (h : i < 31) (valid : Bool) (f : FrameWord) :
    (statusFor valid f).getLsbD i = (extract f).getLsbD i := by
  rw [statusFor, BitVec.getLsbD_append, if_pos h, BitVec.getLsbD_extractLsb']
  simp [h]

theorem statusFor_extractLsb' {lo len : Nat} (h : lo + len ≤ 31) (valid : Bool) (f : FrameWord) :
    (statusFor valid f).extractLsb' lo len = (extract f).extractLsb' lo len := by
  rw [statusFor, BitVec.extractLsb'_append_eq_of_add_le h, BitVec.extractLsb'_extractLsb'_of_le h]

/-- The word of an emitted frame holds a record. -/
theorem exists_climateOf_statusFor (f : FrameWord) : ∃ c, climateOf (statusFor true f) = some c := by
  rw [← Option.ne_none_iff_exists', ne_eq, climateOf_eq_none_iff, statusFor_valid]
  decide

/-- Settles O41: the record of a STATUS word (`climateOf_fields`), and for an emitted frame the same fields traced
through STATUS and Extract to the frame's bits. -/
theorem climateRecordOfStatus : Obligations.ClimateRecordOfStatus := by
  refine ⟨climateOf_eq_none_iff, fun _ _ => climateOf_fields, fun f => ?_⟩
  obtain ⟨c, hc⟩ := exists_climateOf_statusFor f
  have hfields := climateOf_fields hc
  simp (disch := decide) only [statusFor_getLsbD, statusFor_extractLsb', extract_parts, extract_flags] at hfields
  obtain ⟨hmode, hfeet, hface, hfeetDefrost, hfaceFeet, hac, hfront, hrear, hsource, htemperature, hfan⟩ := hfields
  exact ⟨c, hc, hmode, hfeet, hface, hfeetDefrost, hfaceFeet, hac, hfront, hrear, hsource, htemperature, hfan,
    hfan ▸ fanSpeed_le_six f⟩

end Sys2Proof.Machine
end

section
/-! SUPPORT. The words of the read port field by field (30_encoding.md R87 to R94): what STATUS, FRAME_LO, FRAME_HI, SYNC
and CONFIG show, and that an access shows its word and changes nothing else (42_register_reads.md R181 to R184, R188). -/

namespace Sys2Proof.Machine

/-! ## CONFIG -/

/-- The layout of CONFIG (30_encoding.md R94). -/
theorem configWord_fields (p : Params) :
    (configWord p).extractLsb' 0 16 = p.T ∧ (configWord p).extractLsb' 16 4 = 6 ∧
    (configWord p).extractLsb' 20 12 = 0 := by
  refine ⟨?T, ?frameLen, extractLsb'_setWidth_eq_zero _ le_rfl⟩
  case T =>
    rw [configWord, BitVec.extractLsb'_setWidth_of_le (by decide), BitVec.extractLsb'_append_eq_of_add_le (by decide),
      BitVec.extractLsb'_eq_self]
  case frameLen =>
    rw [configWord, BitVec.extractLsb'_setWidth_of_le (by decide), BitVec.extractLsb'_append_eq_of_le (by decide)]
    rfl

/-- A machine with the same parameters shows the same CONFIG. -/
theorem exec_rdConfig_of_params_eq {s t : State} (h : t.params = s.params) :
    exec .rdConfig t = .next (showWord (configWord s.params) t) := by
  rw [← h]
  exact exec_readOf .CONFIG t

/-- Settles O15: the layout of the word, and that neither RESET nor a step changes the parameters it is made of. -/
theorem rdConfigShowsTheParameters : Obligations.RdConfigShowsTheParameters := by
  refine ⟨rfl, fun s => ?_⟩
  obtain ⟨hT, hframeLen, hreserved⟩ := configWord_fields s.params
  refine ⟨configWord s.params, exec_readOf .CONFIG s, hT, hframeLen, hreserved, fun t h => ?_, fun t h => ?_⟩
  · cases h
    exact exec_rdConfig_of_params_eq rfl
  · exact exec_rdConfig_of_params_eq (step_next h).2

/-! ## STATUS -/

/-- Before the first emission the frame and the STATUS word are 0 (10_state.md R47; 42_register_reads.md R181). -/
theorem record_of_not_valid {T : BitVec 16} {f : Fsync} (hf : fsyncInv T f) (hv : f.valid = false) :
    f.frame = 0 ∧ f.status = 0 := by
  obtain ⟨_, _, _, _, _, _, hStatus, hInitial⟩ := hf
  obtain ⟨hframe, _⟩ := hInitial hv
  refine ⟨hframe, ?_⟩
  rw [hStatus, hv, hframe]
  decide

/-- An overrun, a timeout and a halt keep the last emitted frame's record (40_synchronizer.md R122, R124, R125). -/
theorem edge_sameRecord_of_discard_or_halt {T : BitVec 16} {v : CycVector} {f g : Fsync}
    (hg : g = edge T (decodeCyc v) f) (hev : g.evOvr = true ∨ g.evTmo = true ∨ g.evHalt = true) : sameRecord f g := by
  rcases edge_cases T v f g hg with
    ⟨_, e⟩ | ⟨_, e, _⟩ | ⟨_, _, _, e⟩ | ⟨_, _, e⟩ | ⟨_, _, _, e⟩ | ⟨_, _, _, e⟩ | ⟨_, _, _, _, e⟩ | ⟨_, _, _, e⟩ |
    ⟨_, _, _, e⟩ <;> subst e
  pick_goal 5 -- the emission
  · simp at hev
  · simp [Fsync.reset] at hev
  all_goals exact ⟨rfl, rfl, rfl⟩

/-- Settles O11: where R47 holds STATUS is `statusFor` of the last frame, so its fields are those of Extract. -/
theorem rdStatusShowsTheRecord : Obligations.RdStatusShowsTheRecord := by
  refine ⟨rfl, fun s => ⟨exec_readOf .STATUS s, fun ⟨_, hinv⟩ hv => (record_of_not_valid hinv hv).2,
    fun ⟨_, hinv⟩ => ?fields, fun t h hev => ?kept⟩⟩
  case fields =>
    obtain ⟨_, _, _, _, _, _, hStatus, _⟩ := hinv
    obtain ⟨hbit15, hbits30⟩ := statusFor_reserved s.fsync.valid s.fsync.frame
    rw [hStatus]
    refine ⟨?_, ?_, ?_, ?_, hbit15, ?_, ?_, ?_, ?_, ?_, ?_, hbits30, statusFor_valid _ _⟩ <;>
      simp (disch := decide) only [statusFor_extractLsb', statusFor_getLsbD, extract_parts, extract_flags, fanSpeed]
  case kept =>
    obtain ⟨_, _, hstatus⟩ := edge_sameRecord_of_discard_or_halt (step_next h).1 hev
    exact hstatus

/-! ## FRAME_LO and FRAME_HI -/

/-- A part of a part counts its bits from where the outer part starts. -/
theorem extractLsb'_extractLsb'_add {w : Nat} (x : BitVec w) (lo : Nat) {lo' len len' : Nat} (h : lo' + len' ≤ len) :
    (x.extractLsb' lo len).extractLsb' lo' len' = x.extractLsb' (lo + lo') len' := by
  apply BitVec.eq_of_getLsbD_eq
  intro i hi
  simp [hi, show lo' + i < len by omega, Nat.add_assoc]

/-- Bytes 0 to 3 of the frame, lowest first (30_encoding.md R88). -/
theorem frameLoWord_byte (f : Fsync) {k : Nat} (hk : k < 4) :
    (frameLoWord f).extractLsb' (8 * k) 8 = frameByte f.frame k :=
  BitVec.extractLsb'_extractLsb'_of_le (by omega)

/-- Bytes 4 and 5 of the frame, lowest first (30_encoding.md R89). -/
theorem frameHiWord_byte (f : Fsync) {k : Nat} (hk : k < 2) :
    (frameHiWord f).extractLsb' (8 * k) 8 = frameByte f.frame (4 + k) := by
  rw [frameHiWord, BitVec.extractLsb'_setWidth_of_le (by omega), extractLsb'_extractLsb'_add _ _ (by omega),
    frameByte, Nat.mul_add]

/-- Settles O12: byte by byte, and before the first emission the zero frame (`record_of_not_valid`). -/
theorem rdFrameShowsTheBytesInOrder : Obligations.RdFrameShowsTheBytesInOrder := by
  refine ⟨rfl, rfl, fun s => ?_⟩
  have hlo {k : Nat} (hk : k < 4) := frameLoWord_byte s.fsync hk
  have hhi {k : Nat} (hk : k < 2) := frameHiWord_byte s.fsync hk
  refine ⟨frameLoWord s.fsync, frameHiWord s.fsync, exec_readOf .FRAME_LO s, exec_readOf .FRAME_HI s,
    hlo (k := 0) (by decide), hlo (k := 1) (by decide), hlo (k := 2) (by decide), hlo (k := 3) (by decide),
    hhi (k := 0) (by decide), hhi (k := 1) (by decide), extractLsb'_setWidth_eq_zero _ le_rfl, fun ⟨_, hinv⟩ hv => ?_⟩
  obtain ⟨hframe, _⟩ := record_of_not_valid hinv hv
  rw [frameLoWord, frameHiWord, hframe]
  decide

/-! ## SYNC -/

/-- The fields of SYNC beside STATE, HALT_CAUSE and the reserved bits (30_encoding.md R90). -/
theorem syncWord_fields (f : Fsync) :
    (syncWord f).extractLsb' 4 3 = f.cnt ∧ (syncWord f).getLsbD 12 = f.evFrame ∧ (syncWord f).getLsbD 13 = f.evOvr ∧
    (syncWord f).getLsbD 14 = f.evTmo ∧ (syncWord f).getLsbD 15 = f.evHalt ∧
    (syncWord f).extractLsb' 16 16 = f.idleCnt := by
  refine ⟨?cnt, ?evFrame, ?evOvr, ?evTmo, ?evHalt, ?idleCnt⟩
  case cnt | idleCnt =>
    simp (disch := omega) only [syncWord, BitVec.extractLsb'_append_eq_of_le, BitVec.extractLsb'_append_eq_of_add_le,
      Nat.reduceSub, BitVec.extractLsb'_eq_self]
  all_goals
    simp only [syncWord, BitVec.getLsbD_append]
    simp

/-- STATE from the fields (10_state.md R41; 30_encoding.md R91). -/
theorem stateCode_syncState_eq (f : Fsync) :
    stateCode (syncState f) = if f.halted then 4 else if f.chunkOpen then 2 else if f.cnt = 0 then 0 else 1 := by
  unfold syncState
  split_ifs <;> rfl

/-- Six or more bytes are buffered only while a chunk is open (10_state.md R47). -/
theorem syncState_recv_of_six_le_cnt {T : BitVec 16} {f : Fsync} (hf : fsyncInv T f) (hcnt : 6 ≤ f.cnt.toNat) :
    syncState f = .recv := by
  obtain ⟨hHalt, _, _, hClosed, _⟩ := hf
  have hh : f.halted = false := Bool.eq_false_iff.mpr fun hh => by
    obtain ⟨hzero, _⟩ := hHalt hh
    simp [hzero] at hcnt
  refine (syncState_recv_iff f).mpr ⟨hh, Bool.eq_true_of_not_eq_false fun hopen => ?_⟩
  have := hClosed hopen hh
  omega

/-- Settles O13: the layout of the word, and under R47 the states in which CNT is 6 or 7 and IDLE_CNT is not 0. -/
theorem rdSyncShowsTheSynchronizerWord : Obligations.RdSyncShowsTheSynchronizerWord := by
  refine ⟨rfl, fun s => ?_⟩
  obtain ⟨hcnt, hevFrame, hevOvr, hevTmo, hevHalt, hidle⟩ := syncWord_fields s.fsync
  obtain ⟨hbit3, hbit7, hbits11⟩ := syncWord_reserved s.fsync
  have hstate := syncWord_state s.fsync
  refine ⟨syncWord s.fsync, exec_readOf .SYNC s, hstate.trans (stateCode_syncState_eq s.fsync), hbit3, hcnt, hbit7,
    syncWord_haltCause s.fsync, hbits11, hevFrame, hevOvr, hevTmo, hevHalt, hidle,
    fun ⟨_, hinv⟩ => ⟨fun h6 => ?recv, fun hne => ?accum⟩⟩
  case recv => rw [hstate, syncState_recv_of_six_le_cnt hinv h6, stateCode]
  case accum =>
    obtain ⟨_, _, _, _, ⟨_, hAccum⟩, _⟩ := hinv
    rw [hstate, hAccum hne, stateCode]

end Sys2Proof.Machine
end

section
/-! SUPPORT. Reads over time: the word a cycle shows is that of the state before its edge (42_register_reads.md R180, R189),
and while FRAMES stands still so does the record (R190). -/

namespace Sys2Proof.Machine

/-! ## One cycle -/

/-- A cycle that reads address 0 shows the STATUS it begins with, whatever its operation. -/
theorem cycle_rdData_of_status {p : Pins} (hp : p.rdAddr = 0) (s : State) : (cycle p s).rdData = s.fsync.status := by
  rw [cycle, hp]
  rfl

/-- Settles O17: the read port is driven from the state the cycle begins with. -/
theorem readSeesTheStateBeforeTheEdge : Obligations.ReadSeesTheStateBeforeTheEdge := by
  refine ⟨fun s t h => ?_, fun p q s t u hp hq ht hu => ?_⟩
  · rw [step_eq_cycle] at h
    cases h
    exact regRead_congr (takeCycle_fsync s) (takeCycle_params s) _
  · rw [runCycles_singleton] at ht hu
    cases ht
    cases hu
    exact ⟨cycle_rdData_of_status hp s, cycle_rdData_of_status hq _⟩

/-! ## Runs -/

theorem sameRecord_trans {f g h : Fsync} (hfg : sameRecord f g) (hgh : sameRecord g h) : sameRecord f h := by
  obtain ⟨hframe, hvalid, hstatus⟩ := hfg
  obtain ⟨hframe', hvalid', hstatus'⟩ := hgh
  exact ⟨hframe'.trans hframe, hvalid'.trans hvalid, hstatus'.trans hstatus⟩

/-- A run that emits nothing and has no RESET keeps the record. -/
theorem sameRecord_of_emissions_eq_zero {ps : List Pins} {s t : State} (hps : ∀ p ∈ ps, opOf p ≠ .reset)
    (hnone : emissions ps s = 0) (h : runCycles ps s = .next t) : sameRecord s.fsync t.fsync := by
  induction ps generalizing s with
  | nil =>
    cases h
    exact ⟨rfl, rfl, rfl⟩
  | cons p ps ih =>
    rw [runCycles_cons] at h
    rw [emissions_cons, Nat.add_eq_zero_iff] at hnone
    obtain ⟨hfirst, hrest⟩ := hnone
    have hkeep : sameRecord (cycle p s).fsync t.fsync := ih (fun q hq => hps q (List.mem_cons_of_mem _ hq)) hrest h
    rcases edge_record_cases (cycle_fsync p s) with ⟨hev, _⟩ | ⟨_, hreset | hsame⟩
    · rw [if_pos hev] at hfirst
      cases hfirst
    · exact absurd hreset (hps p (List.mem_cons_self ..))
    · exact sameRecord_trans hsame hkeep

/-- The frame counter comes back to its value only after 2^32 emissions or none (10_state.md R42). -/
theorem emissions_eq_zero_of_frames_eq {ps : List Pins} {s t : State} (hps : ∀ p ∈ ps, opOf p ≠ .reset)
    (hlt : emissions ps s < 2 ^ 32) (h : runCycles ps s = .next t) (hframes : t.fsync.frames = s.fsync.frames) :
    emissions ps s = 0 := by
  obtain ⟨_, hcount⟩ := everyFrameUsesSixBytes ps s t h
  have hzero : BitVec.ofNat 32 (emissions ps s) = 0 := by simpa [hframes] using hcount hps
  calc emissions ps s = (BitVec.ofNat 32 (emissions ps s)).toNat := by rw [BitVec.toNat_ofNat, Nat.mod_eq_of_lt hlt]
    _ = 0 := by rw [hzero]; rfl

/-- Settles O50: the counter that stands still says no emission in either part, and each part then keeps the record. -/
theorem equalFrameCountsMeanOneRecord : Obligations.EqualFrameCountsMeanOneRecord := by
  intro qs rs s u t hps hlt hu ht hframes
  have hnone := emissions_eq_zero_of_frames_eq hps hlt ((runCycles_append hu rs).trans ht) hframes
  rw [emissions_append hu, Nat.add_eq_zero_iff] at hnone
  obtain ⟨hqs, hrs⟩ := hnone
  have hfirst : sameRecord s.fsync u.fsync :=
    sameRecord_of_emissions_eq_zero (fun p hp => hps p (List.mem_append_left _ hp)) hqs hu
  have hsecond : sameRecord u.fsync t.fsync :=
    sameRecord_of_emissions_eq_zero (fun p hp => hps p (List.mem_append_right _ hp)) hrs ht
  exact ⟨hfirst, sameRecord_trans hfirst hsecond⟩

end Sys2Proof.Machine
end

section
/-! SUPPORT. No run stops (60_exceptions.md R200; 70_reset_and_hazards.md R248), and the event flags as one word: which of them
an edge leaves set, and by which operation (R205). -/

namespace Sys2Proof.Machine

/-! ## Runs do not stop -/

/-- Every number of steps answers a next state: each step is a cycle, which is total. -/
theorem exists_run (k : Nat) (s : State) : ∃ t, Host.Core.run core k s = .next t := by
  induction k generalizing s with
  | zero => exact ⟨s, rfl⟩
  | succ k ih =>
    rw [run_succ_of_step (step_eq_cycle s)]
    exact ih _

/-- No run changes the parameters. -/
theorem run_params {k : Nat} {s t : State} (h : Host.Core.run core k s = .next t) : t.params = s.params :=
  run_keeps (P := fun u => u.params = s.params) (fun _ _ hu hstep => (step_next hstep).2.trans hu) rfl h

/-- Settles O23. -/
theorem fsyncNeverStops : Obligations.FsyncNeverStops := by
  intro k s
  obtain ⟨t, h⟩ := exists_run k s
  exact ⟨t, h, run_params h⟩

/-! ## One event at most -/

/-- The four event flags, in the order ev_frame, ev_ovr, ev_tmo, ev_halt. -/
def eventFlags (f : Fsync) : List Bool := [f.evFrame, f.evOvr, f.evTmo, f.evHalt]

/-- The flags an edge leaves: none, or the one flag of an event its operation can cause (60_exceptions.md R205). -/
theorem edge_eventFlags_cases {T : BitVec 16} {v : CycVector} {f g : Fsync} (hg : g = edge T (decodeCyc v) f) :
    eventFlags g = [false, false, false, false] ∨
    (decodeCyc v = .byteLast (pinRxData v) (pinTick v) ∧
      (eventFlags g = [true, false, false, false] ∨ eventFlags g = [false, true, false, false])) ∨
    (decodeCyc v = .tick ∧ eventFlags g = [false, false, true, false]) ∨
    ((decodeCyc v = .eos ∨ decodeCyc v = .err) ∧ eventFlags g = [false, false, false, true]) := by
  rcases edge_cases T v f g hg with
    ⟨_, e⟩ | ⟨_, e, _⟩ | ⟨_, hv, _, e⟩ | ⟨_, _, e⟩ | ⟨hv, _, _, e⟩ | ⟨hv, _, _, e⟩ | ⟨_, _, _, _, e⟩ | ⟨hv, _, _, e⟩ |
    ⟨_, _, _, e⟩ <;> subst e
  pick_goal 3 -- the halt
  · exact .inr (.inr (.inr ⟨hv.imp And.left And.left, rfl⟩))
  pick_goal 4 -- the emission
  · exact .inr (.inl ⟨hv, .inl rfl⟩)
  pick_goal 4 -- the overrun
  · exact .inr (.inl ⟨hv, .inr rfl⟩)
  pick_goal 5 -- the timeout
  · exact .inr (.inr (.inl ⟨hv, rfl⟩))
  all_goals exact .inl rfl

/-- Settles O32: each case of `edge_eventFlags_cases` has at most one flag, with its operation beside it. -/
theorem atMostOneEventPerStep : Obligations.AtMostOneEventPerStep := by
  intro s t h
  have hcases := edge_eventFlags_cases (step_next h).1
  refine ⟨?one, fun hev => ?byteLast, fun hev => ?tick, fun hev => ?halt⟩
  case one =>
    change (eventFlags t.fsync).count true ≤ 1
    rcases hcases with e | ⟨_, e | e⟩ | ⟨_, e⟩ | ⟨_, e⟩ <;> rw [e] <;> decide
  case byteLast =>
    rcases hcases with e | ⟨hv, _⟩ | ⟨_, e⟩ | ⟨_, e⟩
    pick_goal 2 -- BYTE_LAST
    · exact ⟨_, _, hv⟩
    all_goals simp_all [eventFlags]
  case tick =>
    rcases hcases with e | ⟨_, e | e⟩ | ⟨hv, _⟩ | ⟨_, e⟩
    pick_goal 4 -- TICK
    · exact hv
    all_goals simp [eventFlags, hev] at e
  case halt =>
    rcases hcases with e | ⟨_, e | e⟩ | ⟨_, e⟩ | ⟨hv, _⟩
    pick_goal 5 -- EOS or ERR
    · exact hv
    all_goals simp [eventFlags, hev] at e

end Sys2Proof.Machine
end

section
/-! SUPPORT. Hazards over time: RESET and `rst` held at 1 (70_reset_and_hazards.md R230 to R232), a chunk that stays open
(R243), and how close two emissions can be (R241). -/

namespace Sys2Proof.Machine

/-! ## RESET -/

/-- `rst` alone selects RESET, whatever the other inputs are (30_encoding.md R82). -/
theorem decodeCyc_eq_reset_iff (v : CycVector) : decodeCyc v = .reset ↔ v.getLsbD 13 = true :=
  (decodeCyc_iff_pins v).1

/-- A cycle with `rst` set leaves ResetState, from whatever state (70_reset_and_hazards.md R231). -/
theorem cycle_fsync_of_rst {p : Pins} (hp : p.vec.getLsbD 13 = true) (s : State) :
    (cycle p s).fsync = Fsync.reset := by
  rw [cycle_fsync, (decodeCyc_eq_reset_iff p.vec).mpr hp, edge]

/-- The registers RESET clears read 0 in ResetState (70_reset_and_hazards.md R230). -/
theorem regRead_of_fsync_reset {s : State} (hs : s.fsync = Fsync.reset) :
    regRead s 3 = 0 ∧ regRead s 0 = 0 ∧ regRead s 4 = 0 := by
  have hSync : regRead s 3 = syncWord s.fsync := rfl
  have hStatus : regRead s 0 = s.fsync.status := rfl
  have hFrames : regRead s 4 = s.fsync.frames := rfl
  rw [hSync, hStatus, hFrames, hs]
  decide

/-- Settles O3: the last cycle of the run alone decides, and no cycle touches T. -/
theorem resetHeldKeepsResetState : Obligations.ResetHeldKeepsResetState := by
  intro ps s hne hrst
  obtain ⟨t, h⟩ := exists_runCycles ps s
  have hreset : t.fsync = Fsync.reset := (runCycles_keeps (Q := fun _ => True) (P := fun u => u.fsync = Fsync.reset) hne
    (fun p hp u _ => ⟨trivial, cycle_fsync_of_rst (hrst p hp) u⟩) trivial h).2
  refine ⟨t, h, hreset, fun hT => stateInv_of_fsync_reset ?_ hreset⟩
  rw [runCycles_params h]
  exact hT

/-- Settles O2: RESET's row of the operation map, its edge from any state, and the reads of ResetState. -/
theorem resetOperationGivesResetState : Obligations.ResetOperationGivesResetState := by
  refine ⟨fun v hv => ?decode, fun s => ⟨_, exec_of_format_cyc rfl s, ?effect⟩⟩
  case decode =>
    obtain ⟨hreset, _⟩ := decodeFollowsTheOperationMap v
    exact hreset.mpr hv
  case effect =>
    obtain ⟨hSync, hStatus, hFrames⟩ := regRead_of_fsync_reset (s := { s with fsync := Fsync.reset }) rfl
    exact ⟨rfl, (syncState_idle_iff _).mpr ⟨rfl, rfl, rfl⟩, ⟨rfl, rfl, rfl, rfl⟩, hSync, hStatus, hFrames, rfl⟩

/-! ## An open chunk -/

/-- The machine is in RECV, its timer at 0, with the record and the counters of `f₀`. -/
def holdsChunkOpen (f₀ f : Fsync) : Prop :=
  syncState f = .recv ∧ f.idleCnt = 0 ∧ sameRecord f₀ f ∧ sameCounters f₀ f

/-- Where R47 holds the timer is at 0 in RECV, since it counts in ACCUM only (10_state.md R37). -/
theorem idleCnt_of_recv {T : BitVec 16} {f : Fsync} (hf : fsyncInv T f) (hr : syncState f = .recv) : f.idleCnt = 0 := by
  obtain ⟨_, _, _, _, ⟨_, hAccum⟩, _⟩ := hf
  by_contra hne
  exact absurd (hr.symm.trans (hAccum hne)) nofun

/-- Outside ACCUM a tick, and everywhere a NOP, clears the event flags only (40_synchronizer.md R113, R116). -/
theorem edge_quiet_of_ne_accum {T : BitVec 16} {i : Instr} {f : Fsync} (hi : isQuiet i = true)
    (ha : syncState f ≠ .accum) : edge T i f = clearEvents f := by
  cases i with
  | nop => rfl
  | tick => exact edge_tick_of_ne_accum T ha
  | _ => cases hi

/-- A quiet cycle or a BYTE has no event and holds the open chunk open (70_reset_and_hazards.md R243). -/
theorem edge_holdsChunkOpen {T : BitVec 16} {i : Instr} {f₀ f : Fsync} (hf : holdsChunkOpen f₀ f)
    (hi : isQuiet i = true ∨ ∃ d tick, i = .byte d tick) :
    holdsChunkOpen f₀ (edge T i f) ∧ noEvent (edge T i f) := by
  obtain ⟨hr, hidle, hrecord, hcounters⟩ := hf
  rcases hi with hq | ⟨d, tick, rfl⟩
  · rw [edge_quiet_of_ne_accum hq (by rw [hr]; decide)]
    exact ⟨⟨hr, hidle, hrecord, hcounters⟩, ⟨rfl, rfl, rfl, rfl⟩⟩
  · obtain ⟨hh, _⟩ := (syncState_recv_iff f).mp hr
    rw [edge_byte T d tick hh]
    exact ⟨⟨(syncState_recv_iff _).mpr ⟨hh, rfl⟩, rfl, hrecord, hcounters⟩, ⟨rfl, rfl, rfl, rfl⟩⟩

/-- Settles O47: `edge_holdsChunkOpen` along the run; R47 gives the timer at 0 to begin with. -/
theorem openChunkIsNeverTimedOut : Obligations.OpenChunkIsNeverTimedOut := by
  intro ps s t hne ⟨_, hinv⟩ hr hps h
  obtain ⟨⟨hr', hidle, hrecord, hcounters⟩, hnone⟩ := runCycles_keeps
    (Q := fun u => holdsChunkOpen s.fsync u.fsync) (P := fun u => noEvent u.fsync) hne
    (fun p hp _ hu => edge_holdsChunkOpen hu (hps p hp))
    ⟨hr, idleCnt_of_recv hinv hr, ⟨rfl, rfl, rfl⟩, ⟨rfl, rfl, rfl⟩⟩ h
  exact ⟨hr', hnone, hidle, hrecord, hcounters⟩

/-! ## The distance of two emissions -/

/-- A cycle accepts one byte at most. -/
theorem acceptedBytes_le_length (ps : List Pins) (s : State) : acceptedBytes ps s ≤ ps.length := by
  induction ps generalizing s with
  | nil => exact le_rfl
  | cons p ps ih =>
    have hrest := ih (cycle p s)
    rw [acceptedBytes_cons, List.length_cons]
    split_ifs <;> omega

/-- Fewer bytes than a frame still needs make no frame, whatever the cycles are (40_synchronizer.md R129). -/
theorem emissions_eq_zero_of_length_lt {ps : List Pins} {s : State} (hlt : s.fsync.cnt.toNat + ps.length < 6) :
    emissions ps s = 0 := by
  obtain ⟨t, h⟩ := exists_runCycles ps s
  obtain ⟨hbytes, _⟩ := everyFrameUsesSixBytes ps s t h
  have haccepted := acceptedBytes_le_length ps s
  omega

/-- A run that emits nothing does not end with an emission. -/
theorem evFrame_of_emissions_eq_zero {ps : List Pins} {s t : State} (hne : ps ≠ []) (hnone : emissions ps s = 0)
    (h : runCycles ps s = .next t) : t.fsync.evFrame = false := by
  obtain ⟨qs, p, rfl⟩ := (List.eq_nil_or_concat' ps).resolve_left hne
  obtain ⟨u, hu⟩ := exists_runCycles qs s
  rw [runCycles_append hu, runCycles_singleton] at h
  cases h
  rw [emissions_append hu, emissions_cons] at hnone
  refine Bool.eq_false_iff.mpr fun hev => ?_
  rw [if_pos hev] at hnone
  omega

/-- Settles O48: an emission leaves the buffer empty, and five cycles bring five bytes at most. -/
theorem emissionsAreSixStepsApart : Obligations.EmissionsAreSixStepsApart := by
  intro s t u ps hstep hev hne hlen h
  obtain ⟨_, hempties, _⟩ := newGenerationOnlyByEventOrReset
  have hcnt : t.fsync.cnt = 0 := hempties s t hstep (.inl hev)
  have hzero : t.fsync.cnt.toNat = 0 := by rw [hcnt]; rfl
  have hnone : emissions ps t = 0 := emissions_eq_zero_of_length_lt (by omega)
  exact ⟨evFrame_of_emissions_eq_zero hne hnone h, fun hps => sameRecord_of_emissions_eq_zero hps hnone h⟩

end Sys2Proof.Machine
end
